-- ==== Sys2Proof/Word.lean ====
section
/-! DEFINITION. The OWC's word: every host-visible register is 8 bits wide (R20), and a device address is 8 of them
(R60, R64). -/

namespace Sys2Proof

/-- An 8-bit register value, an unsigned number (R17). -/
abbrev Byte := BitVec 8

/-- Eight byte registers, byte 0 first (R64): a 64-bit device address, ROM0 to ROM7 or MATCH0 to MATCH7. -/
abbrev Address := Vector Byte 8

/-- The address of eight zero bytes, the reset value of ROM0 to ROM7 and MATCH0 to MATCH7 (R45). -/
def Address.zero : Address := #v[0, 0, 0, 0, 0, 0, 0, 0]

end Sys2Proof
end

