-- ==== Sys2Proof/Config.lean ====
section
/-! DEFINITION. The parameters of the block (R7) and the free values (R37, R118). -/

namespace Sys2Proof

/-- The configuration record `OWCConfig` of R7. Durations count ticks of the timebase (R8). -/
structure OWCConfig where
  /-- `OWC_BASE`: host address of register offset 0x00. -/
  base : Nat
  /-- `TICK`: the duration of one tick, in nanoseconds (nominal 1 µs). -/
  tick : Nat
  /-- `T_RSTL`: reset slot, line driven low. -/
  tRstl : Nat
  /-- `T_MSP`: reset slot, release to presence sample. -/
  tMsp : Nat
  /-- `T_RSTREC`: reset slot, sample to end. -/
  tRstrec : Nat
  /-- `T_SLOT`: total duration of every write and read slot. -/
  tSlot : Nat
  /-- `T_LOW1`: write-1 slot, low time. -/
  tLow1 : Nat
  /-- `T_LOW0`: write-0 slot, low time. -/
  tLow0 : Nat
  /-- `T_RL`: read slot, initiating low time. -/
  tRl : Nat
  /-- `T_MSR`: read slot, release to sample. -/
  tMsr : Nat
  /-- `T_INT`: duration of a command with no bus activity. -/
  tInt : Nat
  /-- `T_START`: delay from an accepted CMD write to the first line edge. -/
  tStart : Nat
  /-- `CMD_SEARCH_ROM`: the byte a search pass sends after its reset. -/
  cmdSearchRom : Byte
  /-- `CMD_MATCH_ROM`: the byte SELECT sends before the address. -/
  cmdMatchRom : Byte
deriving DecidableEq, Repr

namespace OWCConfig

/-- The constraints every configuration must meet (R7). -/
abbrev Valid (c : OWCConfig) : Prop :=
  (0 < c.tLow1 ∧ c.tLow1 < c.tLow0 ∧ c.tLow0 < c.tSlot) ∧
  (0 < c.tRl ∧ c.tRl + c.tMsr < c.tSlot) ∧
  (0 < c.tRstl ∧ 0 < c.tMsp) ∧ 1 ≤ c.tInt

/-- `T_RST = T_RSTL + T_MSP + T_RSTREC` (R114). -/
def tRst (c : OWCConfig) : Nat := c.tRstl + c.tMsp + c.tRstrec

/-- The defaults of R7's table. PRESUMED: the spec marks them [from general knowledge, not in source] (log 1);
`base` has no default there: DESIGN CHOICE 0 (log 2). -/
def default : OWCConfig where
  base := 0
  tick := 1000
  tRstl := 480
  tMsp := 70
  tRstrec := 410
  tSlot := 70
  tLow1 := 6
  tLow0 := 60
  tRl := 6
  tMsr := 9
  tInt := 1
  tStart := 0
  cmdSearchRom := 0xF0
  cmdMatchRom := 0x55

/-- The time `t` ticks take, in nanoseconds: every interval scales with `TICK` (R8). -/
def nanoseconds (c : OWCConfig) (t : Nat) : Nat := t * c.tick

end OWCConfig

/-- `CMD_SKIP_ROM`, the host's broadcast byte (R97, R127). PRESUMED: the spec marks it [from general knowledge, not in
source] (log 1). It is a byte of the host's and of the reference population, not of the block (R202). -/
def cmdSkipRom : Byte := 0xCC

/-- The level of the released line at the n-th sample, where it is a free draw: no value is known (R118, U8, log 5). `true` is high. -/
opaque Config.freeLevel : Nat → Bool

/-- The byte the n-th host read returns, where R37 says "any value" (U5, log 6). -/
opaque Config.freeByte : Nat → Byte

end Sys2Proof
end

