-- ==== Sys2Proof/Syntax.lean ====
section
/-! DEFINITION. The commands (R91), the host's registers (R61) and the host's accesses (R96, R97). -/

namespace Sys2Proof

/-- The twelve commands of the opcode map (R91). No command has an operand field (R90): its operands are fixed
registers (R92). -/
inductive Instr where
  | busReset
  | writeBit
  | readBit
  | writeByte
  | readByte
  | searchReset
  | searchFirst
  | searchNext
  | select
  | crcClear
  | crcFeed
  | crcRom
deriving DecidableEq, Repr

/-- What a byte written to CMD stands for: exactly one command, or ILLEGAL (R94). -/
inductive Decoded where
  | command (i : Instr)
  /-- A code that is not a command (R93). -/
  | illegal
deriving DecidableEq, Repr

/-- The host-visible registers: the 23 that R20 names and R61's map gives an offset. DEDUCED: R20 counts 21 of them, and the
model follows the names and the map, not the count (log 29). -/
inductive Reg where
  | cmd
  | status
  | data
  | crc
  | ld
  | lfd
  | sresult
  | rom (i : Fin 8)
  | mtch (i : Fin 8)
deriving DecidableEq, Repr

/-- The fields of STATUS (R24). -/
inductive Flag where
  | busy
  | presence
  | found
  | ldf
  | crcOk
  | ovr
  | ill
deriving DecidableEq, Repr

/-- The outcome codes of SRESULT (R40); `none` is also the `code` of a pass that goes on (R171). -/
inductive SearchCode where
  | none
  | found
  | busEmpty
  | busFault
  | zeroFamily
  | exhausted
deriving DecidableEq, Repr

/-- What the world outside does to the block's host side, one item at an instant. -/
inductive HostEvent where
  /-- A one-byte store to a host address (R71). -/
  | write (addr : Nat) (v : Byte)
  /-- A one-byte load from a host address (R72). -/
  | read (addr : Nat)
  /-- An access of another width (R68). -/
  | wide (addr width : Nat)
  /-- One tick of the timebase passes without an access (R8). -/
  | tick
  /-- The host makes no access until BUSY = 0 (log 20). -/
  | wait
  /-- `rst` is asserted (R260). -/
  | rst
deriving DecidableEq, Repr

/-- A line of a host program (R96). -/
inductive HostOp where
  | wr (r : Reg) (v : Byte)
  | rd (r : Reg)
  | poll
deriving DecidableEq, Repr

/-- The pseudo-instructions of R97. -/
inductive Pseudo where
  | reset
  | wbit (b : Byte)
  | rbit
  | wbyte (v : Byte)
  | rbyte
  | sreset
  | first
  | next
  | select (a : Address)
  | crcclr
  | crc (v : Byte)
  | crcrom
  | skip
  | done
deriving DecidableEq, Repr

/-- A slot on the line, while it runs (R114 to R116). -/
inductive SlotKind where
  | reset
  | write (b : Bool)
  | read
deriving DecidableEq, Repr

/-- A slot that has run, with its sample (`true` is high). -/
inductive SlotDone where
  | reset (s : Bool)
  | write (b : Bool)
  | read (s : Bool)
  /-- A slot that block reset stopped after `ticks` ticks (R260). -/
  | cut (k : SlotKind) (ticks : Nat)
deriving DecidableEq, Repr

end Sys2Proof
end

