-- ==== Sys2Proof/WellFormed.lean ====
section
/-! DEFINITION. Which terms of the syntax mean something: every command (it has no field to check, R90), the host
accesses the spec defines (R60, R68), and the configurations R7 allows. -/

namespace Sys2Proof

/-- Every command is well formed: `CMD8` has the one field `opcode` and no operand (R90). -/
def Instr.wellFormed (_ : Instr) : Bool := true

/-- The address lies in the 32-byte window (R60). -/
def inWindow (c : OWCConfig) (addr : Nat) : Bool := decide (c.base ≤ addr ∧ addr < c.base + 32)

/-- The access is one the spec defines: one byte wide (R68), in the window (R60). -/
def HostEvent.wellFormed (c : OWCConfig) : HostEvent → Bool
  | .write a _ => inWindow c a
  | .read a => inWindow c a
  | .wide _ _ => false
  | .tick => true
  | .wait => true
  | .rst => true

/-- The configuration meets the constraints of R7. -/
def OWCConfig.wellFormed (c : OWCConfig) : Bool := decide c.Valid

end Sys2Proof
end

