-- ==== Sys2Proof/Decode.lean ====
section
/-! DEFINITION. The decoder of CMD, total on bytes (R94), and the encoder written from the same opcode map (R91). -/

namespace Sys2Proof

/-- The command a byte written to CMD selects, by equality of the whole byte (R91, R94); every other code is illegal
(R93). -/
def decode (v : Byte) : Decoded :=
  match v.toNat with
  | 0x01 => .command .busReset
  | 0x02 => .command .writeBit
  | 0x03 => .command .readBit
  | 0x04 => .command .writeByte
  | 0x05 => .command .readByte
  | 0x06 => .command .searchReset
  | 0x07 => .command .searchFirst
  | 0x08 => .command .searchNext
  | 0x09 => .command .select
  | 0x0A => .command .crcClear
  | 0x0B => .command .crcFeed
  | 0x0C => .command .crcRom
  | _ => .illegal

/-- The code of a command (R91). -/
def encode : Instr → Byte
  | .busReset => 0x01
  | .writeBit => 0x02
  | .readBit => 0x03
  | .writeByte => 0x04
  | .readByte => 0x05
  | .searchReset => 0x06
  | .searchFirst => 0x07
  | .searchNext => 0x08
  | .select => 0x09
  | .crcClear => 0x0A
  | .crcFeed => 0x0B
  | .crcRom => 0x0C

/-- The command of a decoding, if it is one. -/
def Decoded.toOption : Decoded → Option Instr
  | .command i => some i
  | .illegal => none

/-- The bytes of an instruction of `nbits` bits whose bits are `w`, the first byte the least significant. -/
def wordBytes (nbits w : Nat) : List Byte :=
  (List.range (nbits / 8)).map fun k => BitVec.ofNat 8 (w / 2 ^ (8 * k))

/-- The instruction this decoder reads from a row of the opcode table: a command is exactly one byte (R90). -/
def decodeTableWord (nbits w : Nat) : Option Instr :=
  match wordBytes nbits w with
  | [v] => (decode v).toOption
  | _ => none

end Sys2Proof
end

