-- ==== Sys2Proof/Machine/State.lean ====
section
/-! DEFINITION. The state of the block and of what stands around it, as plain data (10_state.md, R9, R10). -/

namespace Sys2Proof.Machine

/-- A device of the reference population (R124): its address and the bits it answers in the function phase (R128). -/
structure Device where
  addr : Address
  reply : List Bool
deriving DecidableEq, Repr

/-- Which of the three slots of a search position comes next (R126). -/
inductive SearchSlot where
  | id
  | cmp
  | dir
deriving DecidableEq, Repr

/-- The mode of the reference population (R125 to R129). -/
inductive RefMode where
  /-- The bits of the ROM command byte received so far, first bit first (R125). -/
  | romCmd (bits : List Bool)
  /-- In the search, at position `n` (R126). -/
  | search (n : Nat) (at_ : SearchSlot)
  /-- The bits of the match address received so far, first bit first (R127). -/
  | matching (bits : List Bool)
  /-- Function phase: `k` read slots since selection (R128). -/
  | function (k : Nat)
  | idle
  /-- After a slot that block reset cut short: the devices' state is unknown until the next reset slot (U16, log 8). -/
  | unknown
deriving DecidableEq, Repr

/-- The reference population `RefBus(P)` (R124). -/
structure RefBus where
  /-- P. -/
  devices : List Device
  /-- A: devices still in the current search pass. -/
  active : List Device
  /-- S: devices that answer ordinary read slots. -/
  selected : List Device
  mode : RefMode
deriving DecidableEq, Repr

/-- The third agent (R9): what sets the level of the released line at a sample instant. -/
inductive Population where
  /-- The unconstrained draw of R118. -/
  | free
  /-- Given levels, oldest first (`true` is high); free draws when they run out. -/
  | script (levels : List Bool)
  /-- `ShortBus`: every sample is 0 (R129). -/
  | short
  /-- `MuteBus`: presence, but every read slot samples 1 (R129). -/
  | mute
  /-- `RefBus(P)` (R124). -/
  | ref (b : RefBus)
deriving DecidableEq, Repr

/-- The pass-local state of a search pass (R34) with the primed values of R171, which commit writes. -/
structure Pass where
  /-- The 1-based index of the bit being searched, 1 to 65. -/
  n : Nat
  /-- 0 to 64. -/
  lastZero : Nat
  idBit : Bool
  cmpBit : Bool
  dir : Bool
  /-- LD when the pass began (R163). -/
  ld : Byte
  /-- LFD'. -/
  lfd : Byte
  /-- ROM'. -/
  rom : Address
  /-- PRESENCE'. -/
  presence : Bool
  /-- `none` while the pass goes on. -/
  code : SearchCode
deriving DecidableEq, Repr

/-- The sequencer record of a running command (R33, R34). -/
structure Run where
  /-- `cur_cmd`: the code of the running command. -/
  curCmd : Byte
  /-- Ticks of `T_START` still to pass before the first slot (R119). -/
  waitLeft : Nat
  /-- `step`: the slots of the command that have run; the bit counter of a byte transfer. -/
  step : Nat
  /-- `tick_count`: the position inside the current slot, or inside `T_INT` (R237). DESIGN CHOICE: a natural number. R237
  and U14 leave the timer's bit width to the implementation, at least `max(T_RST, T_SLOT, T_INT)` (log 28). -/
  tickCount : Nat
  /-- The last sample taken in this command. -/
  sample : Bool
  /-- The partial byte of READ_BYTE. -/
  partialByte : Byte
  /-- Exists only while SEARCH_FIRST or SEARCH_NEXT runs. -/
  pass : Option Pass
deriving DecidableEq, Repr

/-- `phase`; the other sequencer fields have no value in IDLE (R33, R45). -/
inductive Phase where
  | idle
  | run (r : Run)
deriving DecidableEq, Repr

/-- The machine: the block (R10), its parameters (R7) and its environment (R9). -/
structure State where
  /-- The parameters; no step changes them (log 1). -/
  cfg : OWCConfig
  phase : Phase
  /-- STATUS bit 1 (R25). -/
  presence : Bool
  /-- STATUS bit 2 (R26). -/
  found : Bool
  /-- STATUS bit 3, `last_device_flag` (R27). -/
  ldf : Bool
  /-- STATUS bit 4 (R28). -/
  crcOk : Bool
  /-- STATUS bit 5 (R29). -/
  ovr : Bool
  /-- STATUS bit 6 (R30). -/
  ill : Bool
  /-- DATA (R21). -/
  data : Byte
  /-- CRC (R32). -/
  crc : Byte
  /-- LD, `last_discrepancy` (R38). -/
  ld : Byte
  /-- LFD, `last_family_discrepancy` (R39). -/
  lfd : Byte
  /-- SRESULT (R40). -/
  sresult : SearchCode
  /-- ROM0 to ROM7 (R41). -/
  rom : Address
  /-- MATCH0 to MATCH7 (R22). -/
  matchAddr : Address
  /-- `ow_drive_low` (R43), in the tick the sequencer stands in. -/
  owDriveLow : Bool
  /-- The bus population (R9, R118); the model's own field. -/
  bus : Population
  /-- Samples taken so far, at which free levels are drawn (log 5); the model's own field. Host reads leave it alone (R69). -/
  draws : Nat
  /-- The slots run on the line, newest first; the model's own field. -/
  slots : List SlotDone
  /-- Ticks gone by; the model's own field. -/
  now : Nat
  /-- Host events still to come, next first (R73); the model's own field. -/
  host : List HostEvent
  /-- The bytes host reads have returned, newest first; the model's own field. -/
  reads : List Byte
  /-- Host reads made so far, at which the free bytes of reads are drawn (log 6); the model's own field. No sample depends
  on it (R69). -/
  readDraws : Nat
deriving DecidableEq, Repr

/-- Why the machine stops. The block itself raises nothing (R230). -/
inductive Fault where
  /-- A host access to an address outside the 32-byte window (R60, R63): it does not reach this block. Raised by
  `Machine.windowOffset`'s callers. Safe: the model stops where this block does nothing. -/
  | addressOutsideWindow
  /-- RUN with a `cur_cmd` that is no command: no accepted CMD write leads here (R71, U15). Raised by
  `Machine.sequencerTurn`. Safe: the state is unreachable. -/
  | illegalCurCmd
deriving DecidableEq, Repr

/-- What the model gives no meaning. -/
inductive Refusal where
  /-- A command whose meaning is not written. Raised by `exec` alone. Safe. -/
  | notModelled (mnemonic : String)
  /-- A host access of a width other than one byte (R68: "a model refuses it"). Raised by `Machine.stepEvent`. Safe. -/
  | accessWidth
deriving DecidableEq, Repr

/-- The machine right after block reset (R45), with the default parameters (log 1), no host event to come, an
unconstrained bus, and no past. -/
def State.reset : State where
  cfg := OWCConfig.default
  phase := .idle
  presence := false
  found := false
  ldf := false
  crcOk := false
  ovr := false
  ill := false
  data := 0x00
  crc := 0x00
  ld := 0
  lfd := 0
  sresult := .none
  rom := Address.zero
  matchAddr := Address.zero
  owDriveLow := false
  bus := .free
  draws := 0
  slots := []
  now := 0
  host := []
  reads := []
  readDraws := 0

end Sys2Proof.Machine
end

