-- ==== Sys2Proof/Machine/Operands.lean ====
section
/-! DEFINITION. Operand forms: bits of bytes (R17), bits of device addresses (R161), and the order in which they go on the
bus (R65, R66). -/

namespace Sys2Proof.Machine

/-- `v[i]`: bit i of v, bit 0 least significant (R17). -/
def bitOf (v : Byte) (i : Nat) : Bool := v.getLsbD i

/-- v with bit i set to b. -/
def setBit (v : Byte) (i : Nat) (b : Bool) : Byte :=
  if b then v ||| (1#8 <<< i) else v &&& ~~~(1#8 <<< i)

/-- `zext_8` of one bit (R17, R142). -/
def zext8 (b : Bool) : Byte := if b then 0x01 else 0x00

/-- The bits of a byte in slot order: bit 0 first (R65). -/
def bitsOf (v : Byte) : List Bool := (List.range 8).map (bitOf v)

/-- The byte whose bits, bit 0 first, are given. -/
def byteOfBits (bits : List Bool) : Byte :=
  bits.foldr (fun b v => (v <<< 1) ||| zext8 b) 0

/-- Byte i of an address (R64). -/
def addrByte (a : Address) (i : Nat) : Byte := a.getD i 0

/-- `ROMbit(n) = ROM[(n-1) div 8][(n-1) mod 8]`, n in 1 to 64 (R161); also `bit_n(a)` of R124. -/
def romBit (a : Address) (n : Nat) : Bool := bitOf (addrByte a ((n - 1) / 8)) ((n - 1) % 8)

/-- The address with bit n (1 to 64) set to d (R165). -/
def setRomBit (a : Address) (n : Nat) (d : Bool) : Address :=
  a.setIfInBounds ((n - 1) / 8) (setBit (addrByte a ((n - 1) / 8)) ((n - 1) % 8) d)

/-- The bits of an address in slot order: byte 0 first, bit 0 first (R66). -/
def addrBits (a : Address) : List Bool := (List.range 8).flatMap fun i => bitsOf (addrByte a i)

/-- The bits SELECT sends: CMD_MATCH_ROM, then MATCH0 to MATCH7 (R200). -/
def selectBits (s : State) : List Bool := bitsOf s.cfg.cmdMatchRom ++ addrBits s.matchAddr

end Sys2Proof.Machine
end

