-- ==== Sys2Proof/Machine/Bus.lean ====
section
/-! DEFINITION. The line (R110), the waveform of the three slots (R114 to R116), and the bus population (R118, R124 to
R129). -/

namespace Sys2Proof.Machine

/-- The level of the line: 0 if the block or any device pulls it low, 1 otherwise (R110). -/
def lineLevel (driveLow devicePullsLow : Bool) : Bool := !(driveLow || devicePullsLow)

/-- The number of ticks a slot lasts (R114, R115, R116). -/
def slotTicks (c : OWCConfig) : SlotKind → Nat
  | .reset => c.tRst
  | .write _ => c.tSlot
  | .read => c.tSlot

/-- The number of ticks at the start of a slot in which the block drives the line low (R114, R115, R116). -/
def lowTicks (c : OWCConfig) : SlotKind → Nat
  | .reset => c.tRstl
  | .write b => if b then c.tLow1 else c.tLow0
  | .read => c.tRl

/-- `ow_drive_low` in tick t of a slot (R112, R114 to R116). -/
def driveLowAt (c : OWCConfig) (k : SlotKind) (t : Nat) : Bool := decide (t < lowTicks c k)

/-- The sample instant of a slot, in ticks from its start; a write slot takes no sample (R113 to R116). -/
def sampleTick (c : OWCConfig) : SlotKind → Option Nat
  | .reset => some (c.tRstl + c.tMsp)
  | .write _ => none
  | .read => some (c.tRl + c.tMsr)

/-- The record of a slot that ran to its end with the sample `s`. -/
def slotDone : SlotKind → Bool → SlotDone
  | .reset, s => .reset s
  | .write b, _ => .write b
  | .read, s => .read s

/-- Bit k of a device's reply; the line is left released after its end (R128; log 24). -/
def Device.replyBit (d : Device) (k : Nat) : Bool := d.reply.getD k true

/-- Whether a device of the reference population pulls the line low at the sample instant of a slot: the sample is the
wired AND of the answers (R125, R126, R128), and 1 wherever those rules say nothing (R129). -/
def RefBus.pullsLow (b : RefBus) (draw : Nat) : SlotKind → Bool
  | .reset => !b.devices.isEmpty
  | .write _ => false
  | .read =>
    match b.mode with
    | .search n .id => b.active.any fun d => !romBit d.addr n
    | .search n .cmp => b.active.any fun d => romBit d.addr n
    | .search _ .dir => false
    | .function k => b.selected.any fun d => !d.replyBit k
    | .romCmd _ => false
    | .matching _ => false
    | .idle => false
    | .unknown => !Config.freeLevel draw

/-- What the ROM command byte c does to the reference population (R126, R127); an unknown byte leaves it idle (R129). -/
def RefBus.romCommand (c : OWCConfig) (b : RefBus) (code : Byte) : RefBus :=
  if code = c.cmdSearchRom then { b with mode := .search 1 .id }
  else if code = c.cmdMatchRom then { b with mode := .matching [] }
  else if code = cmdSkipRom then { b with selected := b.devices, mode := .function 0 }
  else { b with mode := .idle }

/-- The reference population after a write slot with bit d (R125 to R129). A write where a read is due leaves it idle
(log 7). -/
def RefBus.afterWrite (c : OWCConfig) (b : RefBus) (d : Bool) : RefBus :=
  match b.mode with
  | .romCmd bits =>
    if bits.length + 1 = 8 then b.romCommand c (byteOfBits (bits ++ [d]))
    else { b with mode := .romCmd (bits ++ [d]) }
  | .search n .dir =>
    { b with active := b.active.filter fun v => romBit v.addr n == d,
             mode := if n = 64 then .idle else .search (n + 1) .id }
  | .search _ .id => { b with mode := .idle }
  | .search _ .cmp => { b with mode := .idle }
  | .matching bits =>
    if bits.length + 1 = 64 then
      { b with selected := b.devices.filter fun v => addrBits v.addr == bits ++ [d], mode := .function 0 }
    else { b with mode := .matching (bits ++ [d]) }
  | .function _ => b
  | .idle => b
  | .unknown => b

/-- The reference population after a read slot (R126, R128, R129). A read where a write is due leaves it idle (log 7). -/
def RefBus.afterRead (b : RefBus) : RefBus :=
  match b.mode with
  | .search n .id => { b with mode := .search n .cmp }
  | .search n .cmp => { b with mode := .search n .dir }
  | .search _ .dir => { b with mode := .idle }
  | .function k => { b with mode := .function (k + 1) }
  | .romCmd _ => b
  | .matching _ => b
  | .idle => b
  | .unknown => b

/-- The reference population after a slot. -/
def RefBus.observe (c : OWCConfig) (b : RefBus) : SlotDone → RefBus
  | .reset _ => { b with active := b.devices, selected := [], mode := .romCmd [] }
  | .write d => b.afterWrite c d
  | .read _ => b.afterRead
  | .cut _ _ => { b with mode := .unknown }

/-- The bus population after a slot. -/
def Population.observe (c : OWCConfig) (p : Population) (d : SlotDone) : Population :=
  match p with
  | .free => .free
  | .script levels => .script levels
  | .short => .short
  | .mute => .mute
  | .ref b => .ref (b.observe c d)

/-- Whether some device pulls the line low at the sample instant of a slot (R118, R129). -/
def Population.pullsLow (p : Population) (draw : Nat) (k : SlotKind) : Bool :=
  match p with
  | .free => !Config.freeLevel draw
  | .script [] => !Config.freeLevel draw
  | .script (l :: _) => !l
  | .short => true
  | .mute => match k with
    | .reset => true
    | .write _ => false
    | .read => false
  | .ref b => b.pullsLow draw k

/-- The population after a sample has been taken: a given list of levels loses its first. -/
def Population.afterSample : Population → Population
  | .free => .free
  | .script levels => .script levels.tail
  | .short => .short
  | .mute => .mute
  | .ref b => .ref b

end Sys2Proof.Machine
end

