-- ==== Sys2Proof/Machine/Flags.lean ====
section
/-! DEFINITION. STATUS and its flags (R24 to R31), and the value of each host-visible register (R20). -/

namespace Sys2Proof.Machine

/-- BUSY is 1 exactly when `phase = RUN` (R33). -/
def State.busy (s : State) : Bool :=
  match s.phase with
  | .idle => false
  | .run _ => true

/-- A STATUS byte from its fields; bit 7 reads 0 (R24, R31). -/
def statusByte (busy presence found ldf crcOk ovr ill : Bool) : Byte :=
  setBit (setBit (setBit (setBit (setBit (setBit (setBit 0 0 busy) 1 presence) 2 found) 3 ldf) 4 crcOk) 5 ovr) 6 ill

/-- STATUS as stored (R24). -/
def State.status (s : State) : Byte :=
  statusByte s.busy s.presence s.found s.ldf s.crcOk s.ovr s.ill

/-- A field of STATUS (R24). -/
def State.flag (s : State) : Flag → Bool
  | .busy => s.busy
  | .presence => s.presence
  | .found => s.found
  | .ldf => s.ldf
  | .crcOk => s.crcOk
  | .ovr => s.ovr
  | .ill => s.ill

/-- The code in SRESULT bits 2:0; bits 7:3 read 0 (R40). -/
def codeByte : SearchCode → Byte
  | .none => 0
  | .found => 1
  | .busEmpty => 2
  | .busFault => 3
  | .zeroFamily => 4
  | .exhausted => 5

/-- The exact value of a host-visible register, whatever BUSY is; CMD reads 0x00 (R23). -/
def State.regValue (s : State) : Reg → Byte
  | .cmd => 0x00
  | .status => s.status
  | .data => s.data
  | .crc => s.crc
  | .ld => s.ld
  | .lfd => s.lfd
  | .sresult => codeByte s.sresult
  | .rom i => addrByte s.rom i
  | .mtch i => addrByte s.matchAddr i

/-- A host write to STATUS: write-one-to-clear of OVR and ILL, every other bit ignored (R31). -/
def State.clearStickyFlags (s : State) (v : Byte) : State :=
  { s with ovr := s.ovr && !bitOf v 5, ill := s.ill && !bitOf v 6 }

end Sys2Proof.Machine
end

