-- ==== Sys2Proof/Machine/Ops.lean ====
section
/-! DEFINITION. The shared operations of the commands: time, samples, the slots as primitives (R17, R114 to R117), and
commit (R36). The block takes no exception and returns from none (R230), so no such operation exists. -/

namespace Sys2Proof.Machine

/-- `k` ticks of the timebase go by. -/
def State.elapse (s : State) (k : Nat) : State := { s with now := s.now + k }

/-- `T_START`, before the first slot of a command (R119). -/
def State.startDelay (s : State) : State := s.elapse s.cfg.tStart

/-- `T_INT`, the time of a command with no bus activity (R36). -/
def State.internalDelay (s : State) : State := s.elapse s.cfg.tInt

/-- `ow_sense` at the sample instant of a slot, in which the block drives as given (R110, R113). -/
def State.senseLevel (s : State) (driveLow : Bool) (k : SlotKind) : Bool :=
  lineLevel driveLow (s.bus.pullsLow s.draws k)

/-- The state once a sample has been taken: the oracle has made one draw (R118). -/
def State.afterSample (s : State) : State :=
  { s with bus := s.bus.afterSample, draws := s.draws + 1 }

/-- A slot ends: the bus population has seen it, and it stands in the record of the line. -/
def State.endSlot (s : State) (d : SlotDone) : State :=
  { s with bus := s.bus.observe s.cfg d, slots := d :: s.slots }

/-- `ResetSlot() -> s` (R114). -/
def resetSlot (s : State) : Bool × State :=
  let level := s.senseLevel false .reset
  (level, (s.afterSample.elapse s.cfg.tRst).endSlot (.reset level))

/-- `WriteSlot(b)` (R115); it takes no sample. -/
def writeSlot (b : Bool) (s : State) : State := (s.elapse s.cfg.tSlot).endSlot (.write b)

/-- `ReadSlot() -> s` (R116). -/
def readSlot (s : State) : Bool × State :=
  let level := s.senseLevel false .read
  (level, (s.afterSample.elapse s.cfg.tSlot).endSlot (.read level))

/-- Write slots for the given bits, the first first, without a gap (R119). -/
def writeBits (bits : List Bool) (s : State) : State := bits.foldl (fun t b => writeSlot b t) s

/-- `WriteByteSlots(v)` (R117). -/
def writeByteSlots (v : Byte) (s : State) : State := writeBits (bitsOf v) s

/-- The last `k` of the eight read slots of a byte, `r` the bits read so far (R117). -/
def readBitsFrom : Nat → Byte → State → Byte × State
  | 0, r, s => (r, s)
  | k + 1, r, s =>
    let (b, t) := readSlot s
    readBitsFrom k (setBit r (7 - k) b) t

/-- `ReadByteSlots()` (R117): the first sample is bit 0. -/
def readByteSlots (s : State) : Byte × State := readBitsFrom 8 0x00 s

/-- Commit: the registers a command writes have been given their final values, BUSY becomes 0 and the line is released
(R36, R44). -/
def State.complete (s : State) : State := { s with phase := .idle, owDriveLow := false }

/-- Block reset (R260, R45): every piece of block state takes its reset value, at once. The parameters, the population,
the counters and the records are not the block's. -/
def State.blockReset (s : State) : State :=
  { State.reset with
    cfg := s.cfg, bus := s.bus, draws := s.draws, slots := s.slots, now := s.now, host := s.host, reads := s.reads,
    readDraws := s.readDraws }

end Sys2Proof.Machine
end

