-- ==== Sys2Proof/Machine/Crc.lean ====
section
/-! DEFINITION. The CRC-8 validator (44_crc.md). -/

namespace Sys2Proof.Machine

/-- `k` rounds of the loop of `crc8_update`, each over the lowest bit of d (R210). -/
def crcRounds : Nat → Byte → Byte → Byte
  | 0, c, _ => c
  | k + 1, c, d =>
    let mix := (c ^^^ d) &&& 0x01
    let c1 := c >>> 1
    crcRounds k (if mix = 1 then c1 ^^^ 0x8C else c1) (d >>> 1)

/-- `crc8_update(c, d)` (R210). -/
def crc8Update (c d : Byte) : Byte := crcRounds 8 c d

/-- `crc8` of a byte range, from the initial value 0x00 (R210). -/
def crc8 (bytes : List Byte) : Byte := bytes.foldl crc8Update 0x00

/-- Bytes 0 to 6 of an address, over which byte 7 is computed (R214). -/
def checkedBytes (a : Address) : List Byte := (List.range 7).map (addrByte a)

/-- The commit of CRC_CLEAR (R212). -/
def commitCrcClear (s : State) : State := { s with crc := 0x00 }.complete

/-- The commit of CRC_FEED (R213). -/
def commitCrcFeed (s : State) : State := { s with crc := crc8Update s.crc s.data }.complete

/-- The commit of CRC_ROM (R214). -/
def commitCrcRom (s : State) : State :=
  { s with crc := crc8 (checkedBytes s.rom),
           crcOk := decide (crc8 (checkedBytes s.rom) = addrByte s.rom 7) }.complete

/-- CRC_CLEAR (R212). -/
def execCrcClear (s : State) : Host.Outcome State Fault Refusal := .next (commitCrcClear s.internalDelay)

/-- CRC_FEED (R213). -/
def execCrcFeed (s : State) : Host.Outcome State Fault Refusal := .next (commitCrcFeed s.internalDelay)

/-- CRC_ROM (R214). -/
def execCrcRom (s : State) : Host.Outcome State Fault Refusal := .next (commitCrcRom s.internalDelay)

end Sys2Proof.Machine
end

