-- ==== Sys2Proof/Machine/Search.lean ====
section
/-! DEFINITION. The address search (42_search.md): the whole pass is R171, the parts R160 to R170. -/

namespace Sys2Proof.Machine

/-- The pass-local state when a pass begins: the primed values equal the registers, and a pass that begins with
`LDF = 1` is EXHAUSTED (R171, R167). -/
def Pass.start (s : State) : Pass where
  n := 1
  lastZero := 0
  idBit := false
  cmpBit := false
  dir := false
  ld := s.ld
  lfd := s.lfd
  rom := s.rom
  presence := s.presence
  code := if s.ldf then .exhausted else .none

/-- After the reset slot of a pass: PRESENCE', and BUS_EMPTY if it sampled 1 (R166). -/
def Pass.afterReset (p : Pass) (sample : Bool) : Pass :=
  { p with presence := !sample, code := if sample then .busEmpty else .none }

/-- The direction at position n: the bit all devices agree on (R162), or the choice at a discrepancy (R163). `old` is
ROM as the previous pass left it. -/
def Pass.direction (p : Pass) (old : Address) : Bool :=
  if p.idBit != p.cmpBit then p.idBit
  else if p.n < p.ld.toNat then romBit old p.n
  else decide (p.n = p.ld.toNat)

/-- A 0 chosen at a discrepancy is recorded (R164). -/
def Pass.recordZero (p : Pass) : Pass :=
  if p.idBit == p.cmpBit && !p.dir then
    { p with lastZero := p.n, lfd := if p.n ≤ 8 then BitVec.ofNat 8 p.n else p.lfd }
  else p

/-- The direction of position n is taken and stored (R164, R165). -/
def Pass.takeDirection (p : Pass) (d : Bool) : Pass :=
  let q := { p with dir := d }.recordZero
  { q with rom := setRomBit q.rom q.n d }

/-- After the two read slots of position n: "1,1" is a bus fault, anything else takes a direction (R162). -/
def Pass.classify (p : Pass) (old : Address) : Pass :=
  if p.idBit && p.cmpBit then { p with code := .busFault } else p.takeDirection (p.direction old)

/-- After the write slot of position n: the next position, or the end of a completed pass (R165, R168). -/
def Pass.advance (p : Pass) : Pass :=
  { p with n := p.n + 1, code := if p.n + 1 = 65 then .found else .none }

/-- The outcome of a pass: a found address whose first byte is 0x00 is ZERO_FAMILY (R169, R170). -/
def Pass.outcome (p : Pass) : SearchCode :=
  if p.code = .found ∧ addrByte p.rom 0 = 0x00 then .zeroFamily else p.code

/-- The commit of a pass (R168 to R171): the search state is reset unless a device was found. -/
def commitPass (p : Pass) (s : State) : State :=
  let found := decide (p.outcome = .found)
  { s with
    ld := if found then BitVec.ofNat 8 p.lastZero else 0
    lfd := if found then p.lfd else 0
    ldf := found && decide (p.lastZero = 0)
    rom := p.rom
    presence := p.presence
    found := found
    sresult := p.outcome }.complete

/-- The last `k` positions of a pass, as long as no bus fault ends it (the loop of R171). `old` is ROM as the previous
pass left it. -/
def searchPositions : Nat → Address → Pass → State → Pass × State
  | 0, _, p, s => (p, s)
  | k + 1, old, p, s =>
    let (idBit, s1) := readSlot s
    let (cmpBit, s2) := readSlot s1
    let q := { p with idBit := idBit, cmpBit := cmpBit }.classify old
    if q.code = .busFault then (q, s2)
    else searchPositions k old q.advance (writeSlot q.dir s2)

/-- `SearchPass()` (R171). -/
def searchPass (s : State) : State :=
  if s.ldf then commitPass (Pass.start s) s.internalDelay
  else
    let (sample, s1) := resetSlot s.startDelay
    let p := (Pass.start s).afterReset sample
    if sample then commitPass p s1
    else
      let (q, s2) := searchPositions 64 s.rom p (writeByteSlots s.cfg.cmdSearchRom s1)
      commitPass q s2

/-- LD, LFD and LDF at their initial values (R172; 90_conflicts.md C2). -/
def State.clearSearch (s : State) : State := { s with ld := 0, lfd := 0, ldf := false }

/-- SEARCH_RESET (R172). -/
def execSearchReset (s : State) : Host.Outcome State Fault Refusal :=
  .next s.internalDelay.clearSearch.complete

/-- SEARCH_FIRST (R173). -/
def execSearchFirst (s : State) : Host.Outcome State Fault Refusal :=
  .next (searchPass s.clearSearch)

/-- SEARCH_NEXT (R174). -/
def execSearchNext (s : State) : Host.Outcome State Fault Refusal :=
  .next (searchPass s)

end Sys2Proof.Machine
end

