-- ==== Sys2Proof/Machine/Select.lean ====
section
/-! DEFINITION. SELECT (43_select.md). -/

namespace Sys2Proof.Machine

/-- SELECT (R200): CMD_MATCH_ROM and MATCH0 to MATCH7 in 72 write slots; no reset slot, no sample (R201). -/
def execSelect (s : State) : Host.Outcome State Fault Refusal :=
  .next (writeBits (selectBits s) s.startDelay).complete

end Sys2Proof.Machine
end

