-- ==== Sys2Proof/Machine/Transfer.lean ====
section
/-! DEFINITION. BUS_RESET, WRITE_BIT, READ_BIT, WRITE_BYTE, READ_BYTE (41_transfer.md). Each meaning is a whole command, from
its acceptance to its commit, as one change of state (R36; log 4). -/

namespace Sys2Proof.Machine

/-- The commit of BUS_RESET: PRESENCE is 1 if the reset slot sampled low (R140, R25). -/
def commitBusReset (sample : Bool) (s : State) : State := { s with presence := !sample }.complete

/-- The commit of READ_BIT (R142). -/
def commitReadBit (sample : Bool) (s : State) : State := { s with data := zext8 sample }.complete

/-- The commit of READ_BYTE (R144). -/
def commitReadByte (r : Byte) (s : State) : State := { s with data := r }.complete

/-- BUS_RESET (R140). -/
def execBusReset (s : State) : Host.Outcome State Fault Refusal :=
  let (sample, t) := resetSlot s.startDelay
  .next (commitBusReset sample t)

/-- WRITE_BIT (R141): DATA[0], the other bits ignored. -/
def execWriteBit (s : State) : Host.Outcome State Fault Refusal :=
  .next (writeSlot (bitOf s.data 0) s.startDelay).complete

/-- READ_BIT (R142). -/
def execReadBit (s : State) : Host.Outcome State Fault Refusal :=
  let (sample, t) := readSlot s.startDelay
  .next (commitReadBit sample t)

/-- WRITE_BYTE (R143). -/
def execWriteByte (s : State) : Host.Outcome State Fault Refusal :=
  .next (writeByteSlots s.data s.startDelay).complete

/-- READ_BYTE (R144). -/
def execReadByte (s : State) : Host.Outcome State Fault Refusal :=
  let (r, t) := readByteSlots s.startDelay
  .next (commitReadByte r t)

end Sys2Proof.Machine
end

