-- ==== Sys2Proof/Machine/Dispatch.lean ====
section
/-! DEFINITION. One meaning for each command (R91). -/

namespace Sys2Proof.Machine

def exec (i : Instr) (s : State) : Host.Outcome State Fault Refusal :=
  match i with
  | .busReset => Sys2Proof.Machine.execBusReset s
  | .writeBit => Sys2Proof.Machine.execWriteBit s
  | .readBit => Sys2Proof.Machine.execReadBit s
  | .writeByte => Sys2Proof.Machine.execWriteByte s
  | .readByte => Sys2Proof.Machine.execReadByte s
  | .searchReset => Sys2Proof.Machine.execSearchReset s
  | .searchFirst => Sys2Proof.Machine.execSearchFirst s
  | .searchNext => Sys2Proof.Machine.execSearchNext s
  | .select => Sys2Proof.Machine.execSelect s
  | .crcClear => Sys2Proof.Machine.execCrcClear s
  | .crcFeed => Sys2Proof.Machine.execCrcFeed s
  | .crcRom => Sys2Proof.Machine.execCrcRom s

end Sys2Proof.Machine
end

