-- ==== Sys2Proof/Machine/Sequencer.lean ====
section
/-! DEFINITION. The sequencer tick by tick (R33, R36, 40_slots.md): the start of an accepted command, the slot it stands
in, what the end of a slot does to its hidden state, and its commit. The meanings of Machine/Transfer.lean to Crc.lean are
the same commands as one change of state (R36). -/

namespace Sys2Proof.Machine

/-- The slot a search pass stands in after `step` slots: the reset slot, the search byte, then read, read, write for each
position (R166, R160, R171); none once its outcome is known. -/
def Pass.slot (p : Pass) (c : OWCConfig) (step : Nat) : Option SlotKind :=
  if p.code ≠ .none then none
  else if step = 0 then some .reset
  else if step < 9 then (bitsOf c.cmdSearchRom)[step - 1]?.map .write
  else if (step - 9) % 3 = 2 then some (.write p.dir)
  else some .read

/-- What the end of a slot does to a pass (R171). -/
def Pass.afterSlot (p : Pass) (old : Address) (step : Nat) (sample : Bool) : Pass :=
  if step = 0 then p.afterReset sample
  else if step < 9 then p
  else if (step - 9) % 3 = 0 then { p with idBit := sample }
  else if (step - 9) % 3 = 1 then { p with cmpBit := sample }.classify old
  else p.advance

/-- The slot a running command stands in; none when it has no slot left, or never had one. -/
def currentSlot (i : Instr) (s : State) (r : Run) : Option SlotKind :=
  match i with
  | .busReset => if r.step = 0 then some .reset else none
  | .writeBit => if r.step = 0 then some (.write (bitOf s.data 0)) else none
  | .readBit => if r.step = 0 then some .read else none
  | .writeByte => (bitsOf s.data)[r.step]?.map .write
  | .readByte => if r.step < 8 then some .read else none
  | .searchReset => none
  | .searchFirst => r.pass.bind fun p => p.slot s.cfg r.step
  | .searchNext => r.pass.bind fun p => p.slot s.cfg r.step
  | .select => (selectBits s)[r.step]?.map .write
  | .crcClear => none
  | .crcFeed => none
  | .crcRom => none

/-- The hidden state after a slot: `step` advances by one, `tick_count` restarts (R33, R237). -/
def Run.afterSlot (r : Run) (i : Instr) (old : Address) : Run :=
  { r with
    step := r.step + 1
    tickCount := 0
    partialByte := if i = .readByte then setBit r.partialByte r.step r.sample else r.partialByte
    pass := r.pass.map fun p => p.afterSlot old r.step r.sample }

/-- The commit of a command that has run tick by tick (R36). -/
def commitRun (i : Instr) (s : State) (r : Run) : State :=
  match i with
  | .busReset => commitBusReset r.sample s
  | .writeBit => s.complete
  | .readBit => commitReadBit r.sample s
  | .writeByte => s.complete
  | .readByte => commitReadByte r.partialByte s
  | .searchReset => s.clearSearch.complete
  | .searchFirst => match r.pass with
    | none => s.complete
    | some p => commitPass p s
  | .searchNext => match r.pass with
    | none => s.complete
    | some p => commitPass p s
  | .select => s.complete
  | .crcClear => commitCrcClear s
  | .crcFeed => commitCrcFeed s
  | .crcRom => commitCrcRom s

/-- `ow_drive_low` where the sequencer stands: low only in the low ticks of a slot (R44, R112). -/
def Run.driveLow (r : Run) (i : Instr) (s : State) : Bool :=
  if r.waitLeft ≠ 0 then false
  else match currentSlot i s r with
    | none => false
    | some k => driveLowAt s.cfg k r.tickCount

/-- The sequencer stands at r, and the line is driven accordingly. -/
def State.standAt (s : State) (i : Instr) (r : Run) : State :=
  { s with phase := .run r, owDriveLow := r.driveLow i s }

/-- The pass-local state at the start of a command; SEARCH_FIRST clears the search state first (R173). -/
def startPass (i : Instr) (s : State) : Option Pass :=
  match i with
  | .busReset => none
  | .writeBit => none
  | .readBit => none
  | .writeByte => none
  | .readByte => none
  | .searchReset => none
  | .searchFirst => some (Pass.start s.clearSearch)
  | .searchNext => some (Pass.start s)
  | .select => none
  | .crcClear => none
  | .crcFeed => none
  | .crcRom => none

/-- The sequencer record of a command accepted in state s: its first step (R33), after `T_START` if it runs on the bus
(R119, R272). -/
def startRun (i : Instr) (s : State) (code : Byte) : Run :=
  let r : Run :=
    { curCmd := code, waitLeft := 0, step := 0, tickCount := 0, sample := true, partialByte := 0x00, pass := startPass i s }
  { r with waitLeft := if (currentSlot i s r).isSome then s.cfg.tStart else 0 }

/-- An accepted CMD write: BUSY becomes 1 and the command starts (R71, R33). -/
def State.accept (s : State) (i : Instr) (code : Byte) : State := s.standAt i (startRun i s code)

/-- The slot of kind k ends: its record, the hidden state, and commit after the last slot (R36, R119). -/
def finishSlot (i : Instr) (k : SlotKind) (s : State) (r : Run) : State :=
  let s1 := s.endSlot (slotDone k r.sample)
  let r1 := r.afterSlot i s.rom
  match currentSlot i s1 r1 with
  | none => commitRun i s1 r1
  | some _ => s1.standAt i r1

/-- The sample of a slot of kind k, if t is its sample instant (R113). -/
def takeSample (k : SlotKind) (t : Nat) (s : State) (r : Run) : State × Run :=
  if sampleTick s.cfg k = some t then
    (s.afterSample, { r with sample := s.senseLevel (driveLowAt s.cfg k t) k })
  else (s, r)

/-- One tick of a slot of kind k (R114 to R116). -/
def slotTick (i : Instr) (k : SlotKind) (s : State) (r : Run) : State :=
  let t := r.tickCount + 1
  let (s1, r1) := takeSample k t s { r with tickCount := t }
  if slotTicks s.cfg k ≤ t then finishSlot i k s1 r1 else s1.standAt i r1

/-- One tick of the sequencer, running command i at r. -/
def runTick (i : Instr) (s : State) (r : Run) : State :=
  if r.waitLeft ≠ 0 then s.standAt i { r with waitLeft := r.waitLeft - 1 }
  else match currentSlot i s r with
    | some k => slotTick i k s r
    | none =>
      if s.cfg.tInt ≤ r.tickCount + 1 then commitRun i s r
      else s.standAt i { r with tickCount := r.tickCount + 1 }

/-- One tick of the timebase. In IDLE the state survives it unchanged (R241). -/
def tick (s : State) : State :=
  match s.phase with
  | .idle => s.elapse 1
  | .run r =>
    match decode r.curCmd with
    | .illegal => s.elapse 1
    | .command i => runTick i (s.elapse 1) r

/-- `k` ticks of the timebase. -/
def ticks : Nat → State → State
  | 0, s => s
  | k + 1, s => ticks k (tick s)

/-- The slot that block reset stops, with the ticks it has run, if the sequencer stands in one (R260). -/
def cutSlot (s : State) : Option SlotDone :=
  match s.phase with
  | .idle => none
  | .run r =>
    if r.waitLeft ≠ 0 then none
    else match decode r.curCmd with
      | .illegal => none
      | .command i => (currentSlot i s r).map fun k => .cut k r.tickCount

/-- `rst` asserted (R260): a running command is abandoned in the middle of its slot, which the devices have seen in part
(R261), and every piece of block state takes its reset value. -/
def assertReset (s : State) : State :=
  match cutSlot s with
  | none => s.blockReset
  | some d => (s.endSlot d).blockReset

end Sys2Proof.Machine
end

