-- ==== Sys2Proof/Machine/Port.lean ====
section
/-! DEFINITION. The host port: the register map (R61), host reads (R72) and host writes (R71). -/

namespace Sys2Proof.Machine

/-- The register at an offset of the window; none where the offset is reserved (R61, R62). -/
def regAt (off : Nat) : Option Reg :=
  match off with
  | 0x00 => some .cmd
  | 0x01 => some .status
  | 0x02 => some .data
  | 0x03 => some .crc
  | 0x04 => some .ld
  | 0x05 => some .lfd
  | 0x06 => some .sresult
  | 0x08 => some (.rom 0)
  | 0x09 => some (.rom 1)
  | 0x0A => some (.rom 2)
  | 0x0B => some (.rom 3)
  | 0x0C => some (.rom 4)
  | 0x0D => some (.rom 5)
  | 0x0E => some (.rom 6)
  | 0x0F => some (.rom 7)
  | 0x10 => some (.mtch 0)
  | 0x11 => some (.mtch 1)
  | 0x12 => some (.mtch 2)
  | 0x13 => some (.mtch 3)
  | 0x14 => some (.mtch 4)
  | 0x15 => some (.mtch 5)
  | 0x16 => some (.mtch 6)
  | 0x17 => some (.mtch 7)
  | _ => none

/-- The offset of a register (R61). -/
def offsetOf : Reg → Nat
  | .cmd => 0x00
  | .status => 0x01
  | .data => 0x02
  | .crc => 0x03
  | .ld => 0x04
  | .lfd => 0x05
  | .sresult => 0x06
  | .rom i => 0x08 + i.val
  | .mtch i => 0x10 + i.val

/-- The offset a host address has in the window; none outside it (R60, R99). -/
def windowOffset (c : OWCConfig) (addr : Nat) : Option Nat :=
  if inWindow c addr then some (addr - c.base) else none

/-- Whether a read of the register returns any value while BUSY = 1 (R37, R72). STATUS is not among them: only its bits
1 to 4 are. -/
def hiddenWhileBusy : Reg → Bool
  | .cmd => false
  | .status => false
  | .data => true
  | .crc => true
  | .ld => true
  | .lfd => true
  | .sresult => true
  | .rom _ => true
  | .mtch _ => false

/-- STATUS as a read while BUSY = 1 returns it: bits 1 to 4 of any value, the other bits exact (R37). -/
def State.statusWhileBusy (s : State) (any : Byte) : Byte :=
  statusByte true (bitOf any 1) (bitOf any 2) (bitOf any 3) (bitOf any 4) s.ovr s.ill

/-- What a host read of a register returns; `any` is the free value of this read (R72, R37). -/
def State.readReg (s : State) (any : Byte) (r : Reg) : Byte :=
  if s.busy then
    match r with
    | .status => s.statusWhileBusy any
    | r => if hiddenWhileBusy r then any else s.regValue r
  else s.regValue r

/-- `HostRead(off)` (R72): a reserved offset reads 0x00 (R62). -/
def hostRead (s : State) (off : Nat) : Byte :=
  match regAt off with
  | none => 0x00
  | some r => s.readReg (Config.freeByte s.readDraws) r

/-- The state after a host read: the value has gone to the host; no register changes, nor the sequencer, nor the bus and
the levels it will give (R69). -/
def State.afterRead (s : State) (off : Nat) : State :=
  { s with reads := hostRead s off :: s.reads, readDraws := s.readDraws + 1 }

/-- A host write to DATA or MATCH that is stored if BUSY = 0, and otherwise ignored and recorded in OVR (R70). -/
def State.storeIfIdle (s stored : State) : State := if s.busy then { s with ovr := true } else stored

/-- A host write to CMD: BUSY is checked first (R233), then the code (R93). -/
def State.writeCmd (s : State) (v : Byte) : State :=
  if s.busy then { s with ovr := true }
  else match decode v with
    | .illegal => { s with ill := true }
    | .command i => s.accept i v

/-- `HostWrite(off, v)` (R71): a write to a read-only register or a reserved offset has no effect (R62). -/
def hostWrite (s : State) (off : Nat) (v : Byte) : State :=
  match regAt off with
  | none => s
  | some .cmd => s.writeCmd v
  | some .status => s.clearStickyFlags v
  | some .data => s.storeIfIdle { s with data := v }
  | some .crc => s
  | some .ld => s
  | some .lfd => s
  | some .sresult => s
  | some (.rom _) => s
  | some (.mtch i) => s.storeIfIdle { s with matchAddr := s.matchAddr.set i v }

end Sys2Proof.Machine
end

