-- ==== Sys2Proof/Machine/HostProgram.lean ====
section
/-! DEFINITION. Host programs: the pseudo-instructions (R97), the host forms (R96), and the events they are. -/

namespace Sys2Proof.Machine

/-- `wr CMD, code; poll`: a command run to its end (R97). -/
def runCommand (i : Instr) : List HostOp := [.wr .cmd (encode i), .poll]

/-- The expansion of a pseudo-instruction (R97). -/
def expandPseudo : Pseudo → List HostOp
  | .reset => runCommand .busReset ++ [.rd .status]
  | .wbit b => .wr .data b :: runCommand .writeBit
  | .rbit => runCommand .readBit ++ [.rd .data]
  | .wbyte v => .wr .data v :: runCommand .writeByte
  | .rbyte => runCommand .readByte ++ [.rd .data]
  | .sreset => runCommand .searchReset
  | .first => runCommand .searchFirst ++ [.rd .sresult]
  | .next => runCommand .searchNext ++ [.rd .sresult]
  | .select a =>
    (List.finRange 8).map (fun i => HostOp.wr (.mtch i) (addrByte a i)) ++ runCommand .select
  | .crcclr => runCommand .crcClear
  | .crc v => .wr .data v :: runCommand .crcFeed
  | .crcrom => runCommand .crcRom ++ [.rd .status]
  | .skip => .wr .data cmdSkipRom :: runCommand .writeByte
  | .done => runCommand .readBit ++ [.rd .data]

/-- The events of a host form (R96, R99). The reads of `poll` before the one that returns BUSY = 0 change nothing (R69)
and give the host nothing it keeps; they are the wait (log 20). -/
def opEvents (c : OWCConfig) : HostOp → List HostEvent
  | .wr r v => [.write (c.base + offsetOf r) v]
  | .rd r => [.read (c.base + offsetOf r)]
  | .poll => [.wait, .read (c.base + offsetOf .status)]

/-- The events of a host program. -/
def programEvents (c : OWCConfig) (ops : List HostOp) : List HostEvent := ops.flatMap (opEvents c)

end Sys2Proof.Machine
end

