-- ==== Sys2Proof/Machine/Turn.lean ====
section
/-! DEFINITION. Whose turn it is: a host event, or the sequencer while the host waits (R9, R16). -/

namespace Sys2Proof.Machine

/-- The command the sequencer holds and has not begun: it stands where acceptance put it (R33). -/
def notBegun (i : Instr) (s : State) (r : Run) : Bool := decide (r = startRun i s r.curCmd)

/-- The sequencer's turn while the host makes no access: a command not begun is run as one change of state (R36); one
that ticks have begun goes on by a tick. `rest` are the host events once the wait is over. -/
def sequencerTurn (s : State) (rest : List HostEvent) : Host.Outcome State Fault Refusal :=
  match s.phase with
  | .idle => .next { s with host := rest }
  | .run r =>
    match decode r.curCmd with
    | .illegal => .fault .illegalCurCmd
    | .command i => if notBegun i s r then exec i { s with host := rest } else .next (tick s)

/-- One host event e, in the state in which it is no longer to come. -/
def stepEvent (e : HostEvent) (s : State) : Host.Outcome State Fault Refusal :=
  match e with
  | .write addr v =>
    match windowOffset s.cfg addr with
    | none => .fault .addressOutsideWindow
    | some off => .next (hostWrite s off v)
  | .read addr =>
    match windowOffset s.cfg addr with
    | none => .fault .addressOutsideWindow
    | some off => .next (s.afterRead off)
  | .wide _ _ => .refused .accessWidth
  | .tick => .next (tick s)
  | .wait => sequencerTurn { s with host := .wait :: s.host } s.host
  | .rst => .next (assertReset s)

/-- One step: the next host event, or the sequencer's turn when none is to come. -/
def nextStep (s : State) : Host.Outcome State Fault Refusal :=
  match s.host with
  | [] => sequencerTurn s []
  | e :: rest => stepEvent e { s with host := rest }

/-- The state in which the command with code v has been accepted and the host waits: the next step runs it (log 16). -/
def placeCommand (s : State) (v : Byte) : State :=
  match decode v with
  | .illegal => { s with phase := .idle, host := .write s.cfg.base v :: s.host }
  | .command i => { s.accept i v with host := .wait :: s.host }

end Sys2Proof.Machine
end

