-- ==== Sys2Proof/Machine/Step.lean ====
section
/-! DEFINITION. The step of the machine, and where a command is placed so that the next step runs it. -/

namespace Sys2Proof.Machine

/-- One step of the machine (R9): Machine/Turn.lean says whose turn it is. -/
def step (s : State) : Host.Outcome State Fault Refusal := nextStep s

/-- s with the command whose bits are w accepted, and the host waiting for it (log 16). A command is one byte (R90). -/
def State.withFetchWord (s : State) (nbits w : Nat) : State := placeCommand s (BitVec.ofNat 8 (w % 2 ^ nbits))

end Sys2Proof.Machine
end

