-- ==== Sys2Proof/Safety.lean ====
section
/-! DEFINITION. What holds of the machine at every instant, in the terms claims use: the search state's invariants (R42),
the line released in IDLE (R44), and the sequencer's record where a command runs (R33 to R37). -/

namespace Sys2Proof.Machine

/-- The invariants of the search state (R42). -/
def SearchStateInv (s : State) : Prop :=
  s.ld.toNat ≤ 64 ∧ s.lfd.toNat ≤ 8 ∧ (s.ldf = true → s.ld = 0) ∧
  (s.ld ≠ 0 → romBit s.rom s.ld.toNat = false) ∧
  (s.ldf = true ∨ s.ld ≠ 0 → s.found = true ∧ addrByte s.rom 0 ≠ 0x00)

/-- FOUND is 1 exactly when SRESULT is FOUND (R40; both are at their reset values before the first pass). -/
def FoundInv (s : State) : Prop := s.found = decide (s.sresult = .found)

/-- Where a pass stands after `step` slots: its position, the last zero before it, and the primed values it may commit
(R34, R160 to R168). -/
def Pass.Inv (p : Pass) (step : Nat) : Prop :=
  p.lfd.toNat ≤ 8 ∧ (p.lastZero ≠ 0 → romBit p.rom p.lastZero = false) ∧
  match p.code with
  | .none =>
    1 ≤ p.n ∧ p.n ≤ 64 ∧ (step < 9 → p.n = 1 ∧ p.lastZero = 0) ∧
    (9 ≤ step → step = 9 + 3 * (p.n - 1) + (step - 9) % 3) ∧
    (if 9 ≤ step ∧ (step - 9) % 3 = 2 then p.lastZero ≤ p.n else p.lastZero < p.n)
  | .found => p.n = 65 ∧ p.lastZero ≤ 64
  | .busEmpty => True
  | .busFault => True
  | .zeroFamily => True
  | .exhausted => True

/-- The pass-local state exists exactly while a search pass runs (R34), and stands as `Pass.Inv` says. -/
def PassInv (i : Instr) (r : Run) : Prop :=
  match r.pass with
  | none => i ≠ .searchFirst ∧ i ≠ .searchNext
  | some p => (i = .searchFirst ∨ i = .searchNext) ∧ p.Inv r.step

/-- `tick_count` is a position inside the current slot, or inside `T_INT` for a command that has none (R33, R237). -/
def PositionInv (i : Instr) (s : State) (r : Run) : Prop :=
  r.waitLeft ≤ s.cfg.tStart ∧ (r.waitLeft ≠ 0 → r.step = 0 ∧ r.tickCount = 0) ∧
  match currentSlot i s r with
  | none => r.waitLeft = 0 ∧ r.step = 0 ∧ r.tickCount < s.cfg.tInt
  | some k => r.tickCount < slotTicks s.cfg k

/-- The sequencer record of a running command (R33). -/
def RunInv (s : State) (r : Run) : Prop :=
  ∃ i, decode r.curCmd = .command i ∧ PositionInv i s r ∧ PassInv i r ∧ s.owDriveLow = r.driveLow i s

/-- The invariant of the machine. -/
def Inv (s : State) : Prop :=
  s.cfg.Valid ∧ SearchStateInv s ∧ FoundInv s ∧
  match s.phase with
  | .idle => s.owDriveLow = false
  | .run r => RunInv s r

/-- The registers a command may write at its commit (R46), STATUS set apart: its fields are `writesFlag`. -/
def writesReg : Instr → Reg → Bool
  | .readBit, .data => true
  | .readByte, .data => true
  | .searchReset, .ld => true
  | .searchReset, .lfd => true
  | .searchFirst, .ld => true
  | .searchFirst, .lfd => true
  | .searchFirst, .sresult => true
  | .searchFirst, .rom _ => true
  | .searchNext, .ld => true
  | .searchNext, .lfd => true
  | .searchNext, .sresult => true
  | .searchNext, .rom _ => true
  | .crcClear, .crc => true
  | .crcFeed, .crc => true
  | .crcRom, .crc => true
  | _, .status => true
  | _, _ => false

/-- The fields of STATUS a command may write at its commit (R46); every commit clears BUSY (R36). -/
def writesFlag : Instr → Flag → Bool
  | _, .busy => true
  | .busReset, .presence => true
  | .searchReset, .ldf => true
  | .searchFirst, .presence => true
  | .searchFirst, .found => true
  | .searchFirst, .ldf => true
  | .searchNext, .presence => true
  | .searchNext, .found => true
  | .searchNext, .ldf => true
  | .crcRom, .crcOk => true
  | _, _ => false

/-- What no command changes besides its registers: the parameters, the host's pending events, and what reads have
returned, with their count. -/
def SameHostSide (s t : State) : Prop :=
  t.cfg = s.cfg ∧ t.host = s.host ∧ t.reads = s.reads ∧ t.readDraws = s.readDraws

/-- Every register but STATUS and those of `rs` reads in t as in s. The window holds nothing else (R60, R61): it is the
block's whole memory. -/
def SameRegsExcept (rs : List Reg) (s t : State) : Prop :=
  ∀ r, r ≠ .status → r ∉ rs → t.regValue r = s.regValue r

/-- Every field of STATUS but BUSY and those of `fs` is in t as in s. -/
def SameFlagsExcept (fs : List Flag) (s t : State) : Prop :=
  ∀ f, f ≠ .busy → f ∉ fs → t.flag f = s.flag f

/-- ROM0 to ROM7. -/
def romRegs : List Reg := (List.finRange 8).map .rom

/-- No slot has run between s and t: the line, the bus population and its draws are as they were. -/
def SameBus (s t : State) : Prop := t.slots = s.slots ∧ t.bus = s.bus ∧ t.draws = s.draws

/-- A command has committed: the sequencer is IDLE and the line released (R36, R44). -/
def Committed (t : State) : Prop := t.phase = .idle ∧ t.owDriveLow = false

/-- The slots of `n` positions of a search pass, oldest first: two reads and a write each (R160, R171). -/
def positionSlots (id cmp : Nat → Bool) (rom : Address) (n : Nat) : List SlotDone :=
  (List.range n).flatMap fun k => [.read (id (k + 1)), .read (cmp (k + 1)), .write (romBit rom (k + 1))]

/-- The slots with which a pass begins when a device is present, oldest first (R166). -/
def passOpening (c : OWCConfig) : List SlotDone := .reset false :: (bitsOf c.cmdSearchRom).map .write

/-- A 0 was chosen at a discrepancy at position n (R162, R164). -/
def ZeroChosen (id cmp : Nat → Bool) (rom : Address) (n : Nat) : Prop :=
  id n = false ∧ cmp n = false ∧ romBit rom n = false

/-- The direction rules at position n of a pass that began with LD = ld0 and ROM = old, and that did not stop there
(R162, R163). -/
def DirectionRule (id cmp : Nat → Bool) (ld0 : Nat) (old rom : Address) (n : Nat) : Prop :=
  ¬(id n = true ∧ cmp n = true) ∧
  (id n ≠ cmp n → romBit rom n = id n) ∧
  (id n = cmp n → romBit rom n = if n < ld0 then romBit old n else decide (n = ld0))

/-- LD with which a search command begins its pass (R173, R174). -/
def startLd (i : Instr) (s : State) : Nat := if i = .searchFirst then 0 else s.ld.toNat

/-- LFD with which a search command begins its pass (R173, R174). -/
def startLfd (i : Instr) (s : State) : Byte := if i = .searchFirst then 0 else s.lfd

/-- LDF with which a search command begins its pass (R173, R174). -/
def startLdf (i : Instr) (s : State) : Bool := if i = .searchFirst then false else s.ldf

/-- The commands run one after another, each to its commit; none if one stops. -/
def runCommands : List Instr → State → Option State
  | [], s => some s
  | i :: is, s =>
    match exec i s with
    | .next t => runCommands is t
    | .fault _ => none
    | .refused _ => none

/-- Bits 1 to n of an address as a number, bit 1 most significant. -/
def keyPrefix (a : Address) : Nat → Nat
  | 0 => 0
  | n + 1 => 2 * keyPrefix a n + (romBit a (n + 1)).toNat

/-- `key(a)`: the sum of `bit_n(a) * 2^(64-n)`, position 1 most significant (R175). -/
def addrKey (a : Address) : Nat := keyPrefix a 64

/-- SEARCH_FIRST and then `k` times SEARCH_NEXT (R175). -/
def sweep (k : Nat) : List Instr := .searchFirst :: List.replicate k .searchNext

/-- The byte range fed to the CRC accumulator: DATA is written and CRC_FEED run for each byte (R213). -/
def feedBytes : List Byte → State → Option State
  | [], s => some s
  | v :: vs, s =>
    match exec .crcFeed { s with data := v } with
    | .next t => feedBytes vs t
    | .fault _ => none
    | .refused _ => none

/-- A host write to DATA, MATCH or CMD at this offset is rejected while BUSY = 1 (R70). -/
def rejectedWhileBusy (off : Nat) : Bool := off == 0x00 || off == 0x02 || (decide (0x10 ≤ off) && decide (off < 0x18))

end Sys2Proof.Machine
end

