-- ==== Sys2Proof/Certificates/Slice0/Obligations.lean ====
section
/-! DEFINITION. The statements for the provers. -/

open Sys2Proof Sys2Proof.Machine

-- ==== Encoding (30_encoding.md) ====

/-- R91: exactly the twelve codes of the opcode map are commands. -/
def Obligations.OpcodeMapDecodes : Prop :=
  decode 0x01 = .command .busReset ∧ decode 0x02 = .command .writeBit ∧ decode 0x03 = .command .readBit ∧
  decode 0x04 = .command .writeByte ∧ decode 0x05 = .command .readByte ∧ decode 0x06 = .command .searchReset ∧
  decode 0x07 = .command .searchFirst ∧ decode 0x08 = .command .searchNext ∧ decode 0x09 = .command .select ∧
  decode 0x0A = .command .crcClear ∧ decode 0x0B = .command .crcFeed ∧ decode 0x0C = .command .crcRom ∧
  ∀ v : Byte, (v = 0x00 ∨ 0x0D ≤ v.toNat) → decode v = .illegal

/-- R94: every byte decodes to one command, by equality with its code, or to ILLEGAL. -/
def Obligations.DecodeAndEncodeAgree : Prop :=
  (∀ (v : Byte) (i : Instr), decode v = .command i ↔ v = encode i) ∧
  (∀ v : Byte, decode v = .illegal ↔ ∀ i : Instr, v ≠ encode i)

-- ==== The step (R33, R36) ====

/-- A command that has been accepted and not begun, while the host waits, is run by the step. -/
def Obligations.StepRunsAcceptedCommand : Prop :=
  ∀ (s : State) (r : Run) (i : Instr) (rest : List HostEvent),
    s.phase = .run r → decode r.curCmd = .command i → r = startRun i s r.curCmd →
    (s.host = .wait :: rest ∨ (s.host = [] ∧ rest = [])) →
    step s = exec i { s with host := rest }

/-- R23 with R33: a legal code written to CMD while BUSY = 0 starts that command, and a wait after it runs it. -/
def Obligations.LegalCmdWriteStartsAndRuns : Prop :=
  ∀ (s : State) (i : Instr) (rest : List HostEvent),
    s.busy = false → s.host = .write s.cfg.base (encode i) :: .wait :: rest →
    ∃ t r, step s = .next t ∧ t.phase = .run r ∧ t.busy = true ∧
      r.curCmd = encode i ∧ r.step = 0 ∧ r.tickCount = 0 ∧
      t = { s with phase := .run r, owDriveLow := t.owDriveLow, host := .wait :: rest } ∧
      step t = exec i { t with host := rest }

/-- What a step does with time (log 3, log 4): a tick is a tick of the sequencer, a wait is ticks until the commit of a
command that ticks have begun, and in IDLE a wait is over and nothing else changes. -/
def Obligations.StepLetsTimePass : Prop :=
  ∀ (s : State) (rest : List HostEvent),
    (s.host = .tick :: rest → step s = .next (tick { s with host := rest })) ∧
    (∀ (r : Run) (i : Instr), s.phase = .run r → decode r.curCmd = .command i → r ≠ startRun i s r.curCmd →
      s.host = .wait :: rest ∨ s.host = [] → step s = .next (tick s)) ∧
    (s.busy = false → s.host = .wait :: rest → step s = .next { s with host := rest }) ∧
    (s.busy = false → s.host = [] → step s = .next s)

-- ==== The host port (20_memory.md) ====

/-- R93: an illegal code. -/
def Obligations.IllegalCodeSetsIll : Prop :=
  ∀ (s : State) (v : Byte) (rest : List HostEvent),
    (v = 0x00 ∨ 0x0D ≤ v.toNat) → s.host = .write s.cfg.base v :: rest →
    (s.busy = false → step s = .next { s with host := rest, ill := true }) ∧
    (s.busy = true → step s = .next { s with host := rest, ovr := true })

/-- R70: a write to DATA, MATCH0 to MATCH7 or CMD while BUSY = 1. -/
def Obligations.BusyWriteIsIgnoredAndSetsOvr : Prop :=
  ∀ (s : State) (off : Nat) (v : Byte) (rest : List HostEvent),
    s.busy = true → (off = 0x00 ∨ off = 0x02 ∨ (0x10 ≤ off ∧ off < 0x18)) →
    s.host = .write (s.cfg.base + off) v :: rest →
    step s = .next { s with host := rest, ovr := true }

/-- R31: a STATUS write, whatever BUSY is. -/
def Obligations.StatusWriteClearsOnlyStickyFlags : Prop :=
  ∀ (s : State) (v : Byte) (rest : List HostEvent),
    s.host = .write (s.cfg.base + 0x01) v :: rest →
    ∃ t, step s = .next t ∧
      t = { s with host := rest, ovr := t.ovr, ill := t.ill } ∧
      t.ovr = (s.ovr && !v.getLsbD 5) ∧ t.ill = (s.ill && !v.getLsbD 6) ∧ t.status.getLsbD 7 = false

/-- R62: reserved offsets and read-only registers, whatever BUSY is. -/
def Obligations.ReservedAndReadOnlyOffsets : Prop :=
  ∀ (s : State) (off : Nat) (v : Byte) (rest : List HostEvent),
    ((off = 0x07 ∨ (0x18 ≤ off ∧ off ≤ 0x1F)) → s.host = .read (s.cfg.base + off) :: rest →
      step s = .next { s with host := rest, reads := 0x00 :: s.reads, readDraws := s.readDraws + 1 }) ∧
    ((0x03 ≤ off ∧ off ≤ 0x0F) ∨ (0x18 ≤ off ∧ off ≤ 0x1F) → s.host = .write (s.cfg.base + off) v :: rest →
      step s = .next { s with host := rest })

/-- R71, the stores: DATA and MATCH0 to MATCH7 while BUSY = 0. -/
def Obligations.IdleWriteStores : Prop :=
  ∀ (s : State) (v : Byte) (rest : List HostEvent), s.busy = false →
    (s.host = .write (s.cfg.base + 0x02) v :: rest → step s = .next { s with host := rest, data := v }) ∧
    (∀ k : Fin 8, s.host = .write (s.cfg.base + 0x10 + k.val) v :: rest →
      ∃ t, step s = .next t ∧ t = { s with host := rest, matchAddr := t.matchAddr } ∧
        ∀ j : Fin 8, addrByte t.matchAddr j = if j = k then v else addrByte s.matchAddr j)

/-- R61 and R72: a read while BUSY = 0 returns the register at the offset; no register changes (the record of
reads and their count are the model's, log 6 and log 10). -/
def Obligations.IdleReadReturnsTheRegister : Prop :=
  ∀ (s : State) (r : Reg) (off : Nat) (rest : List HostEvent),
    s.busy = false →
    (match r with
      | .cmd => off = 0x00 | .status => off = 0x01 | .data => off = 0x02 | .crc => off = 0x03 | .ld => off = 0x04
      | .lfd => off = 0x05 | .sresult => off = 0x06 | .rom i => off = 0x08 + i.val | .mtch i => off = 0x10 + i.val) →
    s.host = .read (s.cfg.base + off) :: rest →
    step s = .next { s with host := rest, reads := s.regValue r :: s.reads, readDraws := s.readDraws + 1 }

/-- R37: what a read returns exactly at all times, and what it hides while BUSY = 1; R69: a read changes no register, nor
the sequencer, nor the bus. The model's choices: the hidden value is `Config.freeByte` at the count of reads, of which
nothing is known (log 6), and the values read stand in a record (log 10). -/
def Obligations.BusyReadsHideOnlyResults : Prop :=
  ∀ (s : State) (off : Nat) (rest : List HostEvent),
    off < 0x20 → s.host = .read (s.cfg.base + off) :: rest →
    ∃ v, step s = .next { s with host := rest, reads := v :: s.reads, readDraws := s.readDraws + 1 } ∧
      (off = 0x00 → v = 0x00) ∧
      (off = 0x01 → v.getLsbD 0 = s.busy ∧ v.getLsbD 5 = s.ovr ∧ v.getLsbD 6 = s.ill ∧ v.getLsbD 7 = false) ∧
      (∀ k : Fin 8, off = 0x10 + k.val → v = addrByte s.matchAddr k) ∧
      (s.busy = true →
        (off = 0x01 → ∀ k, 1 ≤ k → k ≤ 4 → v.getLsbD k = (Config.freeByte s.readDraws).getLsbD k) ∧
        ((0x02 ≤ off ∧ off ≤ 0x06) ∨ (0x08 ≤ off ∧ off ≤ 0x0F) → v = Config.freeByte s.readDraws))

/-- R68: a host access of a width other than one byte is refused. In the window that is the rule; that the model refuses
it at every other address too is log 12. -/
def Obligations.WideAccessIsRefused : Prop :=
  ∀ (s : State) (addr width : Nat) (rest : List HostEvent),
    width ≠ 1 → s.host = .wide addr width :: rest → step s = .refused .accessWidth

/-- The model's choice (log 11): an access outside the window stops; R60 gives the window its 32 addresses. -/
def Obligations.AccessOutsideTheWindowStops : Prop :=
  ∀ (s : State) (addr : Nat) (v : Byte) (rest : List HostEvent),
    (addr < s.cfg.base ∨ s.cfg.base + 32 ≤ addr) →
    (s.host = .write addr v :: rest ∨ s.host = .read addr :: rest) →
    step s = .fault .addressOutsideWindow

/-- R24: the bits of STATUS, and R33: BUSY is 1 exactly in RUN. -/
def Obligations.StatusBits : Prop :=
  ∀ s : State,
    s.status.getLsbD 0 = s.busy ∧ s.status.getLsbD 1 = s.presence ∧ s.status.getLsbD 2 = s.found ∧
    s.status.getLsbD 3 = s.ldf ∧ s.status.getLsbD 4 = s.crcOk ∧ s.status.getLsbD 5 = s.ovr ∧
    s.status.getLsbD 6 = s.ill ∧ s.status.getLsbD 7 = false ∧
    (s.busy = true ↔ ∃ r, s.phase = .run r)

/-- R29: what sets OVR and what clears it, of every step. -/
def Obligations.OvrIsSticky : Prop :=
  ∀ s t : State, step s = .next t →
    (t.ovr = true ↔
      (∃ off v rest, s.host = .write (s.cfg.base + off) v :: rest ∧ s.busy = true ∧ rejectedWhileBusy off = true) ∨
      (s.ovr = true ∧ ¬(∃ v rest, s.host = .write (s.cfg.base + 0x01) v :: rest ∧ v.getLsbD 5 = true) ∧
        ¬∃ rest, s.host = .rst :: rest))

/-- R30: what sets ILL and what clears it, of every step. -/
def Obligations.IllIsSticky : Prop :=
  ∀ s t : State, step s = .next t →
    (t.ill = true ↔
      (∃ v rest, s.host = .write s.cfg.base v :: rest ∧ s.busy = false ∧ decode v = .illegal) ∨
      (s.ill = true ∧ ¬(∃ v rest, s.host = .write (s.cfg.base + 0x01) v :: rest ∧ v.getLsbD 6 = true) ∧
        ¬∃ rest, s.host = .rst :: rest))

/-- R23, R24: only an accepted CMD write makes an idle block busy. -/
def Obligations.OnlyCmdWritesStartCommands : Prop :=
  ∀ s t : State, step s = .next t → s.busy = false →
    (t.busy = true ↔ ∃ i rest, s.host = .write s.cfg.base (encode i) :: rest)

/-- R69, R70, R120: no host access alters or aborts a running command, or what the bus will give it. -/
def Obligations.HostAccessNeverDisturbsARunningCommand : Prop :=
  ∀ (s t : State) (e : HostEvent) (rest : List HostEvent),
    s.busy = true → s.host = e :: rest → ((∃ a v, e = .write a v) ∨ ∃ a, e = .read a) → step s = .next t →
    t.phase = s.phase ∧ t.owDriveLow = s.owDriveLow ∧ t.bus = s.bus ∧ t.draws = s.draws ∧ t.slots = s.slots ∧ t.now = s.now ∧
    (∀ r, r ≠ .status → t.regValue r = s.regValue r) ∧ SameFlagsExcept [.ovr, .ill] s t

/-- R22: MATCH0 to MATCH7 change only by a host write to them while BUSY = 0, or by block reset. -/
def Obligations.OnlyTheHostWritesMatch : Prop :=
  ∀ s t : State, step s = .next t → t.matchAddr ≠ s.matchAddr →
    (∃ rest, s.host = .rst :: rest) ∨
    (s.busy = false ∧ ∃ (k : Fin 8) (v : Byte) (rest : List HostEvent),
      s.host = .write (s.cfg.base + 0x10 + k.val) v :: rest)

/-- The block raises no exception (R230): where the invariant holds, a well-formed event never stops the machine. -/
def Obligations.WellFormedEventsNeverStop : Prop :=
  ∀ s : State, Inv s → (∀ e rest, s.host = e :: rest → e.wellFormed s.cfg = true) → ∃ t, step s = .next t

/-- The parameters are constant (log 1). -/
def Obligations.StepKeepsParameters : Prop :=
  ∀ s t : State, step s = .next t → t.cfg = s.cfg

-- ==== Transfer commands (41_transfer.md) ====

/-- R140. -/
def Obligations.BusResetResult : Prop :=
  ∀ s : State, ∃ t, exec .busReset s = .next t ∧ Committed t ∧
    t.presence = s.bus.pullsLow s.draws .reset ∧
    t.slots = .reset (!s.bus.pullsLow s.draws .reset) :: s.slots ∧
    t.now = s.now + s.cfg.tStart + (s.cfg.tRstl + s.cfg.tMsp + s.cfg.tRstrec) ∧
    SameRegsExcept [] s t ∧ SameFlagsExcept [.presence] s t ∧ SameHostSide s t

/-- R141. -/
def Obligations.WriteBitResult : Prop :=
  ∀ s : State, ∃ t, exec .writeBit s = .next t ∧ Committed t ∧
    t.slots = .write (s.data.getLsbD 0) :: s.slots ∧ t.draws = s.draws ∧
    t.now = s.now + s.cfg.tStart + s.cfg.tSlot ∧
    SameRegsExcept [] s t ∧ SameFlagsExcept [] s t ∧ SameHostSide s t

/-- R142. -/
def Obligations.ReadBitResult : Prop :=
  ∀ s : State, ∃ t, exec .readBit s = .next t ∧ Committed t ∧
    t.data = (if s.bus.pullsLow s.draws .read then 0x00 else 0x01) ∧
    t.slots = .read (!s.bus.pullsLow s.draws .read) :: s.slots ∧
    t.now = s.now + s.cfg.tStart + s.cfg.tSlot ∧
    SameRegsExcept [.data] s t ∧ SameFlagsExcept [] s t ∧ SameHostSide s t

/-- R143: bit 0 of DATA goes first (the record of slots has the newest first). -/
def Obligations.WriteByteResult : Prop :=
  ∀ s : State, ∃ t, exec .writeByte s = .next t ∧ Committed t ∧
    t.slots = [.write (s.data.getLsbD 7), .write (s.data.getLsbD 6), .write (s.data.getLsbD 5),
      .write (s.data.getLsbD 4), .write (s.data.getLsbD 3), .write (s.data.getLsbD 2), .write (s.data.getLsbD 1),
      .write (s.data.getLsbD 0)] ++ s.slots ∧
    t.draws = s.draws ∧ t.now = s.now + s.cfg.tStart + 8 * s.cfg.tSlot ∧
    SameRegsExcept [] s t ∧ SameFlagsExcept [] s t ∧ SameHostSide s t

/-- R144, on any bus: DATA is the eight samples, the first in bit 0 (the record of slots has the newest first). -/
def Obligations.ReadByteResult : Prop :=
  ∀ s : State, ∃ t, exec .readByte s = .next t ∧ Committed t ∧
    t.slots = [.read (t.data.getLsbD 7), .read (t.data.getLsbD 6), .read (t.data.getLsbD 5),
      .read (t.data.getLsbD 4), .read (t.data.getLsbD 3), .read (t.data.getLsbD 2), .read (t.data.getLsbD 1),
      .read (t.data.getLsbD 0)] ++ s.slots ∧
    t.now = s.now + s.cfg.tStart + 8 * s.cfg.tSlot ∧
    (∀ (levels rest : List Bool), s.bus = .script (levels ++ rest) → levels.length = 8 →
      ∀ k, k < 8 → t.data.getLsbD k = levels.getD k false) ∧
    SameRegsExcept [.data] s t ∧ SameFlagsExcept [] s t ∧ SameHostSide s t

/-- R145: what the transfer commands do, they do whatever the search state holds, and they leave it as it is. -/
def Obligations.TransfersIgnoreTheSearchState : Prop :=
  ∀ (i : Instr) (s t : State) (ld lfd : Byte) (ldf found : Bool) (rom : Address) (code : SearchCode),
    (i = .busReset ∨ i = .writeBit ∨ i = .readBit ∨ i = .writeByte ∨ i = .readByte) →
    exec i s = .next t →
    exec i { s with ld := ld, lfd := lfd, ldf := ldf, found := found, rom := rom, sresult := code } =
      .next { t with ld := ld, lfd := lfd, ldf := ldf, found := found, rom := rom, sresult := code }

-- ==== Search commands (42_search.md) ====

/-- R172; after it SEARCH_NEXT behaves as SEARCH_FIRST. -/
def Obligations.SearchResetResult : Prop :=
  ∀ s : State, ∃ t, exec .searchReset s = .next t ∧ Committed t ∧
    t.ld = 0 ∧ t.lfd = 0 ∧ t.ldf = false ∧ t.now = s.now + s.cfg.tInt ∧
    exec .searchNext t = exec .searchFirst t ∧
    SameRegsExcept [.ld, .lfd] s t ∧ SameFlagsExcept [.ldf] s t ∧ SameHostSide s t ∧ SameBus s t

/-- R173: SEARCH_FIRST is the pass of SEARCH_NEXT from the reset search state. -/
def Obligations.SearchFirstClearsThenSearches : Prop :=
  ∀ s : State, exec .searchFirst s = exec .searchNext { s with ld := 0, lfd := 0, ldf := false }

/-- R169, R170: every search pass commits, in every state, with one of the five outcomes; the search state is reset
unless a device was found. -/
def Obligations.SearchAlwaysCommitsAnOutcome : Prop :=
  ∀ (i : Instr) (s : State), (i = .searchFirst ∨ i = .searchNext) →
    ∃ t, exec i s = .next t ∧ Committed t ∧ t.sresult ≠ .none ∧
      (t.found = true ↔ t.sresult = .found) ∧
      (t.sresult = .exhausted ↔ startLdf i s = true) ∧
      (t.sresult = .busEmpty ↔ startLdf i s = false ∧ s.bus.pullsLow s.draws .reset = false) ∧
      (t.sresult = .found → addrByte t.rom 0 ≠ 0x00) ∧
      (t.sresult = .zeroFamily → addrByte t.rom 0 = 0x00) ∧
      (t.sresult ≠ .found → t.ld = 0 ∧ t.lfd = 0 ∧ t.ldf = false) ∧
      (startLdf i s = false → t.presence = s.bus.pullsLow s.draws .reset) ∧
      SameRegsExcept ([.ld, .lfd, .sresult] ++ romRegs) s t ∧ SameFlagsExcept [.presence, .found, .ldf] s t ∧
      SameHostSide s t

/-- R167: a pass that begins with LDF = 1. -/
def Obligations.ExhaustedPassRunsNoSlot : Prop :=
  ∀ s : State, s.ldf = true →
    ∃ t, exec .searchNext s = .next t ∧ Committed t ∧ t.sresult = .exhausted ∧ t.found = false ∧
      t.ld = 0 ∧ t.lfd = 0 ∧ t.ldf = false ∧ t.now = s.now + s.cfg.tInt ∧
      SameRegsExcept [.ld, .lfd, .sresult] s t ∧ SameFlagsExcept [.found, .ldf] s t ∧ SameHostSide s t ∧ SameBus s t

/-- R166: a pass whose reset slot samples 1. -/
def Obligations.EmptyBusPassRunsOneResetSlot : Prop :=
  ∀ (i : Instr) (s : State), (i = .searchFirst ∨ i = .searchNext) → startLdf i s = false →
    s.bus.pullsLow s.draws .reset = false →
    ∃ t, exec i s = .next t ∧ Committed t ∧ t.sresult = .busEmpty ∧ t.found = false ∧ t.presence = false ∧
      t.ld = 0 ∧ t.lfd = 0 ∧ t.ldf = false ∧ t.slots = .reset true :: s.slots ∧
      t.now = s.now + s.cfg.tStart + s.cfg.tRst ∧
      SameRegsExcept [.ld, .lfd, .sresult] s t ∧ SameFlagsExcept [.presence, .found, .ldf] s t ∧ SameHostSide s t

/-- R162 to R168: a pass that completes its 64 positions. -/
def Obligations.CompletedPassFollowsTheRules : Prop :=
  ∀ (i : Instr) (s t : State), (i = .searchFirst ∨ i = .searchNext) → exec i s = .next t →
    (t.sresult = .found ∨ t.sresult = .zeroFamily) →
    ∃ id cmp : Nat → Bool,
      t.slots = (passOpening s.cfg ++ positionSlots id cmp t.rom 64).reverse ++ s.slots ∧
      (∀ n, 1 ≤ n → n ≤ 64 → DirectionRule id cmp (startLd i s) s.rom t.rom n) ∧
      (t.sresult = .found →
        (∀ n, 1 ≤ n → n ≤ 64 → ZeroChosen id cmp t.rom n → n ≤ t.ld.toNat) ∧
        (t.ld ≠ 0 → t.ld.toNat ≤ 64 ∧ ZeroChosen id cmp t.rom t.ld.toNat) ∧
        t.ldf = decide (t.ld = 0) ∧
        (∀ n, 1 ≤ n → n ≤ 8 → ZeroChosen id cmp t.rom n →
          n ≤ t.lfd.toNat ∧ t.lfd.toNat ≤ 8 ∧ ZeroChosen id cmp t.rom t.lfd.toNat) ∧
        ((∀ n, 1 ≤ n → n ≤ 8 → ¬ZeroChosen id cmp t.rom n) → t.lfd = startLfd i s))

/-- R162, R165, R169: a pass that a bus fault ends at position m. -/
def Obligations.FaultedPassStopsAtOnce : Prop :=
  ∀ (i : Instr) (s t : State), (i = .searchFirst ∨ i = .searchNext) → exec i s = .next t → t.sresult = .busFault →
    ∃ (m : Nat) (id cmp : Nat → Bool), 1 ≤ m ∧ m ≤ 64 ∧
      t.slots =
        (passOpening s.cfg ++ positionSlots id cmp t.rom (m - 1) ++
          ([.read true, .read true] : List SlotDone)).reverse ++ s.slots ∧
      (∀ n, 1 ≤ n → n < m → DirectionRule id cmp (startLd i s) s.rom t.rom n) ∧
      (∀ n, m ≤ n → n ≤ 64 → romBit t.rom n = romBit s.rom n) ∧
      t.now = s.now + s.cfg.tStart + s.cfg.tRst + (8 + 3 * (m - 1) + 2) * s.cfg.tSlot

/-- R173: SEARCH_FIRST does not read ROM. From a state that differs in ROM alone it commits the same, in every outcome, but
for the ROM bits the pass did not reach, which keep their values (R165, R169). -/
def Obligations.SearchFirstDoesNotReadRom : Prop :=
  ∀ (s t : State) (rom : Address), exec .searchFirst s = .next t →
    ∃ rom' : Address, exec .searchFirst { s with rom := rom } = .next { t with rom := rom' } ∧
      (t.sresult = .found ∨ t.sresult = .zeroFamily → rom' = t.rom) ∧
      (t.sresult = .busEmpty → rom' = rom ∧ t.rom = s.rom) ∧
      (t.sresult = .busFault → ∃ m, 1 ≤ m ∧ m ≤ 64 ∧ t.slots.length = s.slots.length + 9 + 3 * (m - 1) + 2 ∧
        ∀ n, 1 ≤ n → n ≤ 64 →
          (n < m → romBit rom' n = romBit t.rom n) ∧
          (m ≤ n → romBit rom' n = romBit rom n ∧ romBit t.rom n = romBit s.rom n)) ∧
      (t.sresult = .found ∨ t.sresult = .zeroFamily ∨ t.sresult = .busEmpty ∨ t.sresult = .busFault)

/-- R173, corner cases: ShortBus and MuteBus. -/
def Obligations.ShortAndMuteBusOutcomes : Prop :=
  ∀ s : State, ∃ t, exec .searchFirst s = .next t ∧
    (s.bus = .short → t.sresult = .zeroFamily ∧ t.presence = true ∧ t.rom = Address.zero) ∧
    (s.bus = .mute → t.sresult = .busFault ∧ t.presence = true ∧ t.rom = s.rom ∧
      t.slots = ([.read true, .read true] : List SlotDone) ++ (passOpening s.cfg).reverse ++ s.slots)

/-- R176: two addresses that differ at one position k, on the reference population.
Where CMD_SEARCH_ROM equals CMD_MATCH_ROM or CMD_SKIP_ROM, RefBus takes the byte as a search, which is log 23. -/
def Obligations.TwoAddressesAreResolvedAtTheirDifference : Prop :=
  ∀ (s : State) (b : RefBus) (d0 d1 : Device) (k : Nat),
    s.bus = .ref b → (b.devices = [d0, d1] ∨ b.devices = [d1, d0]) → 1 ≤ k → k ≤ 64 →
    romBit d0.addr k = false → romBit d1.addr k = true →
    (∀ n, 1 ≤ n → n ≤ 64 → n ≠ k → romBit d0.addr n = romBit d1.addr n) →
    addrByte d0.addr 0 ≠ 0x00 → addrByte d1.addr 0 ≠ 0x00 →
    ∃ t u, exec .searchFirst s = .next t ∧ t.found = true ∧ t.rom = d0.addr ∧ t.ld.toNat = k ∧ t.ldf = false ∧
      exec .searchNext t = .next u ∧ u.found = true ∧ u.rom = d1.addr ∧ u.ld = 0 ∧ u.ldf = true

/-- R175: on the reference population a sweep returns every address exactly once, in ascending order of its key, and then
EXHAUSTED.
Where CMD_SEARCH_ROM equals CMD_MATCH_ROM or CMD_SKIP_ROM, RefBus takes the byte as a search, which is log 23. -/
def Obligations.SweepReturnsEveryDeviceInKeyOrder : Prop :=
  ∀ (s : State) (b : RefBus) (addrs : List Address),
    s.bus = .ref b → (b.devices.map Device.addr).Perm addrs → addrs.Pairwise (fun x y => addrKey x < addrKey y) →
    addrs ≠ [] → (∀ a ∈ addrs, addrByte a 0 ≠ 0x00) →
    (∀ k, (hk : k < addrs.length) →
      ∃ t, runCommands (sweep k) s = some t ∧ t.found = true ∧ t.rom = addrs[k] ∧
        t.ldf = decide (k + 1 = addrs.length)) ∧
    ∃ t, runCommands (sweep addrs.length) s = some t ∧ t.found = false ∧ t.sresult = .exhausted

/-- R177: a device with family code 0x00 blocks enumeration.
Where CMD_SEARCH_ROM equals CMD_MATCH_ROM or CMD_SKIP_ROM, RefBus takes the byte as a search, which is log 23. -/
def Obligations.ZeroFamilyDeviceBlocksTheSweep : Prop :=
  ∀ (s : State) (b : RefBus) (d : Device) (k : Nat),
    s.bus = .ref b → d ∈ b.devices → addrByte d.addr 0 = 0x00 →
    ∃ t, runCommands (sweep k) s = some t ∧ t.sresult = .zeroFamily ∧ t.found = false ∧
      t.ld = 0 ∧ t.lfd = 0 ∧ t.ldf = false

-- ==== SELECT (43_select.md) ====

/-- R200: 72 write slots, CMD_MATCH_ROM first, then MATCH0 to MATCH7, each byte bit 0 first. -/
def Obligations.SelectSendsMatchCommandAndAddress : Prop :=
  ∀ s : State, ∃ (t : State) (bits : List Bool), exec .select s = .next t ∧ Committed t ∧
    t.slots = (bits.map SlotDone.write).reverse ++ s.slots ∧ bits.length = 72 ∧
    (∀ j, j < 8 → bits.getD j false = s.cfg.cmdMatchRom.getLsbD j) ∧
    (∀ k j, k < 8 → j < 8 → bits.getD (8 + 8 * k + j) false = (addrByte s.matchAddr k).getLsbD j) ∧
    t.draws = s.draws ∧ t.now = s.now + s.cfg.tStart + 72 * s.cfg.tSlot ∧
    SameRegsExcept [] s t ∧ SameFlagsExcept [] s t ∧ SameHostSide s t

/-- R127: on the reference population, SELECT after a reset slot selects exactly the devices with the address in MATCH.
Where CMD_MATCH_ROM equals CMD_SKIP_ROM, RefBus takes the byte as a match, which is log 23. -/
def Obligations.SelectSelectsTheAddressedDevice : Prop :=
  ∀ (s t u : State) (b : RefBus), s.bus = .ref b → s.cfg.cmdMatchRom ≠ s.cfg.cmdSearchRom →
    exec .busReset s = .next t → exec .select t = .next u →
    ∃ c, u.bus = .ref c ∧ c.devices = b.devices ∧ c.mode = .function 0 ∧
      ∀ d, d ∈ c.selected ↔ d ∈ b.devices ∧ d.addr = s.matchAddr

-- ==== CRC-8 (44_crc.md) ====

/-- R212. -/
def Obligations.CrcClearResult : Prop :=
  ∀ s : State, ∃ t, exec .crcClear s = .next t ∧ Committed t ∧ t.crc = 0x00 ∧ t.now = s.now + s.cfg.tInt ∧
    SameRegsExcept [.crc] s t ∧ SameFlagsExcept [] s t ∧ SameHostSide s t ∧ SameBus s t

/-- R213. -/
def Obligations.CrcFeedResult : Prop :=
  ∀ s : State, ∃ t, exec .crcFeed s = .next t ∧ Committed t ∧ t.crc = crc8Update s.crc s.data ∧
    t.now = s.now + s.cfg.tInt ∧
    SameRegsExcept [.crc] s t ∧ SameFlagsExcept [] s t ∧ SameHostSide s t ∧ SameBus s t

/-- R214. -/
def Obligations.CrcRomResult : Prop :=
  ∀ s : State, ∃ t, exec .crcRom s = .next t ∧ Committed t ∧
    t.crc = crc8 [addrByte s.rom 0, addrByte s.rom 1, addrByte s.rom 2, addrByte s.rom 3, addrByte s.rom 4,
      addrByte s.rom 5, addrByte s.rom 6] ∧
    (t.crcOk = true ↔ t.crc = addrByte s.rom 7) ∧ t.now = s.now + s.cfg.tInt ∧
    SameRegsExcept [.crc] s t ∧ SameFlagsExcept [.crcOk] s t ∧ SameHostSide s t ∧ SameBus s t

/-- R210, from the rule's loop: one byte of the update is the eight rounds of the polynomial 0x8C over `c ^ d`. -/
def Obligations.CrcUpdateDependsOnTheXor : Prop :=
  (∀ c d : Byte, crc8Update c d = crc8Update 0x00 (c ^^^ d)) ∧
  (∀ x y : Byte, crc8Update 0x00 (x ^^^ y) = crc8Update 0x00 x ^^^ crc8Update 0x00 y) ∧
  crc8Update 0x00 0x80 = 0x8C

/-- R213, corner case: CRC_CLEAR and then CRC_FEED of a byte range leaves its crc8. -/
def Obligations.FeedingARangeLeavesItsCrc : Prop :=
  ∀ (bytes : List Byte) (s t : State), exec .crcClear s = .next t →
    ∃ u, feedBytes bytes t = some u ∧ u.crc = crc8 bytes ∧ u.crcOk = s.crcOk

/-- R215: a range followed by its own CRC has CRC 0x00, and CRC_ROM's check is the residue of all eight bytes. -/
def Obligations.CrcResidueIsZero : Prop :=
  (∀ bytes : List Byte, crc8 (bytes ++ [crc8 bytes]) = 0x00) ∧
  ∀ s t : State, exec .crcRom s = .next t →
    (t.crcOk = true ↔ crc8 ((List.range 8).map (addrByte s.rom)) = 0x00)

-- ==== All commands (R46, R272) ====

/-- R46: the register write matrix. -/
def Obligations.WriteMatrix : Prop :=
  ∀ (i : Instr) (s t : State), exec i s = .next t →
    (∀ r, writesReg i r = false → t.regValue r = s.regValue r) ∧
    (∀ f, writesFlag i f = false → t.flag f = s.flag f) ∧ SameHostSide s t

/-- R272: command durations, from acceptance to commit. -/
def Obligations.CommandDurations : Prop :=
  ∀ (i : Instr) (s t : State), exec i s = .next t →
    match i with
    | .busReset => t.now = s.now + s.cfg.tStart + s.cfg.tRst
    | .writeBit => t.now = s.now + s.cfg.tStart + s.cfg.tSlot
    | .readBit => t.now = s.now + s.cfg.tStart + s.cfg.tSlot
    | .writeByte => t.now = s.now + s.cfg.tStart + 8 * s.cfg.tSlot
    | .readByte => t.now = s.now + s.cfg.tStart + 8 * s.cfg.tSlot
    | .select => t.now = s.now + s.cfg.tStart + 72 * s.cfg.tSlot
    | .searchReset => t.now = s.now + s.cfg.tInt
    | .crcClear => t.now = s.now + s.cfg.tInt
    | .crcFeed => t.now = s.now + s.cfg.tInt
    | .crcRom => t.now = s.now + s.cfg.tInt
    | .searchFirst | .searchNext =>
      (t.sresult = .found ∨ t.sresult = .zeroFamily →
        t.now = s.now + s.cfg.tStart + s.cfg.tRst + 200 * s.cfg.tSlot) ∧
      (t.sresult = .busFault → ∃ n, 1 ≤ n ∧ n ≤ 64 ∧ t.slots.length = s.slots.length + 9 + 3 * (n - 1) + 2 ∧
        t.now = s.now + s.cfg.tStart + s.cfg.tRst + (8 + 3 * (n - 1) + 2) * s.cfg.tSlot) ∧
      (t.sresult = .busEmpty → t.now = s.now + s.cfg.tStart + s.cfg.tRst) ∧
      (t.sresult = .exhausted → t.now = s.now + s.cfg.tInt)

-- ==== The sequencer tick by tick (10_state.md R33 to R37, 40_slots.md) ====

/-- R36: run tick by tick, a command other than a search reaches exactly the state its meaning commits. -/
def Obligations.TicksReachTheCommit : Prop :=
  ∀ (i : Instr) (s t : State), s.cfg.Valid → i ≠ .searchFirst → i ≠ .searchNext → exec i s = .next t →
    ticks (t.now - s.now) (s.accept i (encode i)) = t

/-- R36, R171: run tick by tick, a search pass reaches exactly the state its meaning commits. -/
def Obligations.SearchTicksReachTheCommit : Prop :=
  ∀ (i : Instr) (s t : State), s.cfg.Valid → (i = .searchFirst ∨ i = .searchNext) → exec i s = .next t →
    ticks (t.now - s.now) (s.accept i (encode i)) = t

/-- R36, R24: BUSY is 1 from acceptance to commit, and no register changes before the commit. -/
def Obligations.OnlyBusyShowsBeforeTheCommit : Prop :=
  ∀ (i : Instr) (s t : State) (k : Nat), s.cfg.Valid → exec i s = .next t → k < t.now - s.now →
    (ticks k (s.accept i (encode i))).busy = true ∧
    SameRegsExcept [] s (ticks k (s.accept i (encode i))) ∧
    SameFlagsExcept [] s (ticks k (s.accept i (encode i)))

/-- R114 to R116: what the block drives in each tick of its three slots, and R119: nothing during T_START. -/
def Obligations.SlotWaveforms : Prop :=
  ∀ (s : State) (k : Nat), s.cfg.Valid →
    (k < s.cfg.tRst → (ticks (s.cfg.tStart + k) (s.accept .busReset 0x01)).owDriveLow = decide (k < s.cfg.tRstl)) ∧
    (k < s.cfg.tSlot → (ticks (s.cfg.tStart + k) (s.accept .writeBit 0x02)).owDriveLow =
      decide (k < if s.data.getLsbD 0 then s.cfg.tLow1 else s.cfg.tLow0)) ∧
    (k < s.cfg.tSlot → (ticks (s.cfg.tStart + k) (s.accept .readBit 0x03)).owDriveLow = decide (k < s.cfg.tRl)) ∧
    (k < s.cfg.tStart → ∀ i : Instr, (ticks k (s.accept i (encode i))).owDriveLow = false)

/-- R113: a sample instant lies in a slot, where the block releases the line, and the level is 1 exactly when no device
pulls it low (R110). -/
def Obligations.SamplesAreTakenWithTheLineReleased : Prop :=
  ∀ (c : OWCConfig) (k : SlotKind) (t : Nat) (pulls : Bool), c.Valid → sampleTick c k = some t →
    driveLowAt c k t = false ∧ 0 < t ∧ t ≤ slotTicks c k ∧ lineLevel (driveLowAt c k t) pulls = !pulls

/-- R16, R269: from every state of a running command the sequencer reaches its commit within the longest of the
durations of R272. -/
def Obligations.RunningCommandCommitsInBoundedTime : Prop :=
  ∀ s : State, Inv s → s.busy = true →
    ∃ k, k ≤ max s.cfg.tInt (s.cfg.tStart + s.cfg.tRst + 200 * s.cfg.tSlot) ∧ (ticks k s).busy = false

-- ==== Reset (70_reset_and_hazards.md) and the invariant ====

/-- R45: the state after reset. -/
def Obligations.ResetValues : Prop :=
  (∀ r, State.reset.regValue r = 0x00) ∧ (∀ f, State.reset.flag f = false) ∧ State.reset.sresult = .none ∧
  State.reset.phase = .idle ∧ State.reset.owDriveLow = false

/-- R260: block reset at any instant; a slot that was running is cut short and never ends. What the bus population is
then is U16 and R261 as log 8 and log 22 read them: the reference population is unknown, its read slots sample free
draws, and no slot was cut where none was running. The record of the cut slot is the model's (log 10). -/
def Obligations.BlockResetOverridesEverything : Prop :=
  ∀ (s : State) (rest : List HostEvent), s.host = .rst :: rest →
    ∃ t, step s = .next t ∧ (∀ r, t.regValue r = 0x00) ∧ (∀ f, t.flag f = false) ∧ t.sresult = .none ∧
      t.phase = .idle ∧ t.owDriveLow = false ∧ t.cfg = s.cfg ∧ t.now = s.now ∧ t.host = rest ∧ t.reads = s.reads ∧
      t.draws = s.draws ∧ t.readDraws = s.readDraws ∧
      (s.busy = false → t.slots = s.slots ∧ t.bus = s.bus) ∧
      (∀ r i, s.phase = .run r → decode r.curCmd = .command i → (r.waitLeft ≠ 0 ∨ currentSlot i s r = none) →
        t.slots = s.slots ∧ t.bus = s.bus) ∧
      (∀ r i k, s.phase = .run r → decode r.curCmd = .command i → r.waitLeft = 0 → currentSlot i s r = some k →
        t.slots = .cut k r.tickCount :: s.slots ∧
        ((∀ b, s.bus ≠ .ref b) → t.bus = s.bus) ∧
        ∀ b, s.bus = .ref b →
          t.bus = .ref { b with mode := .unknown } ∧ ∀ d, t.bus.pullsLow d .read = !Config.freeLevel d) ∧
      (t.slots = s.slots ∨ ∃ k n, t.slots = .cut k n :: s.slots)

/-- The invariant holds right after reset. Its clause that the parameters are valid (R7) rests on the default parameters,
which State.reset takes from the spec's general knowledge (log 1). -/
def Obligations.ResetMeetsTheInvariant : Prop := Inv State.reset

/-- R42, R44, R33: every step keeps the invariant. -/
def Obligations.StepKeepsTheInvariant : Prop :=
  ∀ s t : State, Inv s → step s = .next t → Inv t
end

