-- ==== Sys2Proof/Laws/State.lean ====
section
/-! SUPPORT. One lemma per field for each update of State, so that no proof unfolds a record update. -/

namespace Sys2Proof.Machine

variable (s : State)

-- elapse
@[simp] theorem State.elapse_cfg (k : Nat) : (s.elapse k).cfg = s.cfg := rfl
@[simp] theorem State.elapse_phase (k : Nat) : (s.elapse k).phase = s.phase := rfl
@[simp] theorem State.elapse_presence (k : Nat) : (s.elapse k).presence = s.presence := rfl
@[simp] theorem State.elapse_found (k : Nat) : (s.elapse k).found = s.found := rfl
@[simp] theorem State.elapse_ldf (k : Nat) : (s.elapse k).ldf = s.ldf := rfl
@[simp] theorem State.elapse_crcOk (k : Nat) : (s.elapse k).crcOk = s.crcOk := rfl
@[simp] theorem State.elapse_ovr (k : Nat) : (s.elapse k).ovr = s.ovr := rfl
@[simp] theorem State.elapse_ill (k : Nat) : (s.elapse k).ill = s.ill := rfl
@[simp] theorem State.elapse_data (k : Nat) : (s.elapse k).data = s.data := rfl
@[simp] theorem State.elapse_crc (k : Nat) : (s.elapse k).crc = s.crc := rfl
@[simp] theorem State.elapse_ld (k : Nat) : (s.elapse k).ld = s.ld := rfl
@[simp] theorem State.elapse_lfd (k : Nat) : (s.elapse k).lfd = s.lfd := rfl
@[simp] theorem State.elapse_sresult (k : Nat) : (s.elapse k).sresult = s.sresult := rfl
@[simp] theorem State.elapse_rom (k : Nat) : (s.elapse k).rom = s.rom := rfl
@[simp] theorem State.elapse_matchAddr (k : Nat) : (s.elapse k).matchAddr = s.matchAddr := rfl
@[simp] theorem State.elapse_owDriveLow (k : Nat) : (s.elapse k).owDriveLow = s.owDriveLow := rfl
@[simp] theorem State.elapse_bus (k : Nat) : (s.elapse k).bus = s.bus := rfl
@[simp] theorem State.elapse_draws (k : Nat) : (s.elapse k).draws = s.draws := rfl
@[simp] theorem State.elapse_slots (k : Nat) : (s.elapse k).slots = s.slots := rfl
@[simp] theorem State.elapse_now (k : Nat) : (s.elapse k).now = s.now + k := rfl
@[simp] theorem State.elapse_host (k : Nat) : (s.elapse k).host = s.host := rfl
@[simp] theorem State.elapse_reads (k : Nat) : (s.elapse k).reads = s.reads := rfl
@[simp] theorem State.elapse_readDraws (k : Nat) : (s.elapse k).readDraws = s.readDraws := rfl

-- startDelay
@[simp] theorem State.startDelay_cfg : (s.startDelay).cfg = s.cfg := rfl
@[simp] theorem State.startDelay_phase : (s.startDelay).phase = s.phase := rfl
@[simp] theorem State.startDelay_presence : (s.startDelay).presence = s.presence := rfl
@[simp] theorem State.startDelay_found : (s.startDelay).found = s.found := rfl
@[simp] theorem State.startDelay_ldf : (s.startDelay).ldf = s.ldf := rfl
@[simp] theorem State.startDelay_crcOk : (s.startDelay).crcOk = s.crcOk := rfl
@[simp] theorem State.startDelay_ovr : (s.startDelay).ovr = s.ovr := rfl
@[simp] theorem State.startDelay_ill : (s.startDelay).ill = s.ill := rfl
@[simp] theorem State.startDelay_data : (s.startDelay).data = s.data := rfl
@[simp] theorem State.startDelay_crc : (s.startDelay).crc = s.crc := rfl
@[simp] theorem State.startDelay_ld : (s.startDelay).ld = s.ld := rfl
@[simp] theorem State.startDelay_lfd : (s.startDelay).lfd = s.lfd := rfl
@[simp] theorem State.startDelay_sresult : (s.startDelay).sresult = s.sresult := rfl
@[simp] theorem State.startDelay_rom : (s.startDelay).rom = s.rom := rfl
@[simp] theorem State.startDelay_matchAddr : (s.startDelay).matchAddr = s.matchAddr := rfl
@[simp] theorem State.startDelay_owDriveLow : (s.startDelay).owDriveLow = s.owDriveLow := rfl
@[simp] theorem State.startDelay_bus : (s.startDelay).bus = s.bus := rfl
@[simp] theorem State.startDelay_draws : (s.startDelay).draws = s.draws := rfl
@[simp] theorem State.startDelay_slots : (s.startDelay).slots = s.slots := rfl
@[simp] theorem State.startDelay_now : (s.startDelay).now = s.now + s.cfg.tStart := rfl
@[simp] theorem State.startDelay_host : (s.startDelay).host = s.host := rfl
@[simp] theorem State.startDelay_reads : (s.startDelay).reads = s.reads := rfl
@[simp] theorem State.startDelay_readDraws : (s.startDelay).readDraws = s.readDraws := rfl

-- internalDelay
@[simp] theorem State.internalDelay_cfg : (s.internalDelay).cfg = s.cfg := rfl
@[simp] theorem State.internalDelay_phase : (s.internalDelay).phase = s.phase := rfl
@[simp] theorem State.internalDelay_presence : (s.internalDelay).presence = s.presence := rfl
@[simp] theorem State.internalDelay_found : (s.internalDelay).found = s.found := rfl
@[simp] theorem State.internalDelay_ldf : (s.internalDelay).ldf = s.ldf := rfl
@[simp] theorem State.internalDelay_crcOk : (s.internalDelay).crcOk = s.crcOk := rfl
@[simp] theorem State.internalDelay_ovr : (s.internalDelay).ovr = s.ovr := rfl
@[simp] theorem State.internalDelay_ill : (s.internalDelay).ill = s.ill := rfl
@[simp] theorem State.internalDelay_data : (s.internalDelay).data = s.data := rfl
@[simp] theorem State.internalDelay_crc : (s.internalDelay).crc = s.crc := rfl
@[simp] theorem State.internalDelay_ld : (s.internalDelay).ld = s.ld := rfl
@[simp] theorem State.internalDelay_lfd : (s.internalDelay).lfd = s.lfd := rfl
@[simp] theorem State.internalDelay_sresult : (s.internalDelay).sresult = s.sresult := rfl
@[simp] theorem State.internalDelay_rom : (s.internalDelay).rom = s.rom := rfl
@[simp] theorem State.internalDelay_matchAddr : (s.internalDelay).matchAddr = s.matchAddr := rfl
@[simp] theorem State.internalDelay_owDriveLow : (s.internalDelay).owDriveLow = s.owDriveLow := rfl
@[simp] theorem State.internalDelay_bus : (s.internalDelay).bus = s.bus := rfl
@[simp] theorem State.internalDelay_draws : (s.internalDelay).draws = s.draws := rfl
@[simp] theorem State.internalDelay_slots : (s.internalDelay).slots = s.slots := rfl
@[simp] theorem State.internalDelay_now : (s.internalDelay).now = s.now + s.cfg.tInt := rfl
@[simp] theorem State.internalDelay_host : (s.internalDelay).host = s.host := rfl
@[simp] theorem State.internalDelay_reads : (s.internalDelay).reads = s.reads := rfl
@[simp] theorem State.internalDelay_readDraws : (s.internalDelay).readDraws = s.readDraws := rfl

-- afterSample
@[simp] theorem State.afterSample_cfg : (s.afterSample).cfg = s.cfg := rfl
@[simp] theorem State.afterSample_phase : (s.afterSample).phase = s.phase := rfl
@[simp] theorem State.afterSample_presence : (s.afterSample).presence = s.presence := rfl
@[simp] theorem State.afterSample_found : (s.afterSample).found = s.found := rfl
@[simp] theorem State.afterSample_ldf : (s.afterSample).ldf = s.ldf := rfl
@[simp] theorem State.afterSample_crcOk : (s.afterSample).crcOk = s.crcOk := rfl
@[simp] theorem State.afterSample_ovr : (s.afterSample).ovr = s.ovr := rfl
@[simp] theorem State.afterSample_ill : (s.afterSample).ill = s.ill := rfl
@[simp] theorem State.afterSample_data : (s.afterSample).data = s.data := rfl
@[simp] theorem State.afterSample_crc : (s.afterSample).crc = s.crc := rfl
@[simp] theorem State.afterSample_ld : (s.afterSample).ld = s.ld := rfl
@[simp] theorem State.afterSample_lfd : (s.afterSample).lfd = s.lfd := rfl
@[simp] theorem State.afterSample_sresult : (s.afterSample).sresult = s.sresult := rfl
@[simp] theorem State.afterSample_rom : (s.afterSample).rom = s.rom := rfl
@[simp] theorem State.afterSample_matchAddr : (s.afterSample).matchAddr = s.matchAddr := rfl
@[simp] theorem State.afterSample_owDriveLow : (s.afterSample).owDriveLow = s.owDriveLow := rfl
@[simp] theorem State.afterSample_bus : (s.afterSample).bus = s.bus.afterSample := rfl
@[simp] theorem State.afterSample_draws : (s.afterSample).draws = s.draws + 1 := rfl
@[simp] theorem State.afterSample_slots : (s.afterSample).slots = s.slots := rfl
@[simp] theorem State.afterSample_now : (s.afterSample).now = s.now := rfl
@[simp] theorem State.afterSample_host : (s.afterSample).host = s.host := rfl
@[simp] theorem State.afterSample_reads : (s.afterSample).reads = s.reads := rfl
@[simp] theorem State.afterSample_readDraws : (s.afterSample).readDraws = s.readDraws := rfl

-- endSlot
@[simp] theorem State.endSlot_cfg (d : SlotDone) : (s.endSlot d).cfg = s.cfg := rfl
@[simp] theorem State.endSlot_phase (d : SlotDone) : (s.endSlot d).phase = s.phase := rfl
@[simp] theorem State.endSlot_presence (d : SlotDone) : (s.endSlot d).presence = s.presence := rfl
@[simp] theorem State.endSlot_found (d : SlotDone) : (s.endSlot d).found = s.found := rfl
@[simp] theorem State.endSlot_ldf (d : SlotDone) : (s.endSlot d).ldf = s.ldf := rfl
@[simp] theorem State.endSlot_crcOk (d : SlotDone) : (s.endSlot d).crcOk = s.crcOk := rfl
@[simp] theorem State.endSlot_ovr (d : SlotDone) : (s.endSlot d).ovr = s.ovr := rfl
@[simp] theorem State.endSlot_ill (d : SlotDone) : (s.endSlot d).ill = s.ill := rfl
@[simp] theorem State.endSlot_data (d : SlotDone) : (s.endSlot d).data = s.data := rfl
@[simp] theorem State.endSlot_crc (d : SlotDone) : (s.endSlot d).crc = s.crc := rfl
@[simp] theorem State.endSlot_ld (d : SlotDone) : (s.endSlot d).ld = s.ld := rfl
@[simp] theorem State.endSlot_lfd (d : SlotDone) : (s.endSlot d).lfd = s.lfd := rfl
@[simp] theorem State.endSlot_sresult (d : SlotDone) : (s.endSlot d).sresult = s.sresult := rfl
@[simp] theorem State.endSlot_rom (d : SlotDone) : (s.endSlot d).rom = s.rom := rfl
@[simp] theorem State.endSlot_matchAddr (d : SlotDone) : (s.endSlot d).matchAddr = s.matchAddr := rfl
@[simp] theorem State.endSlot_owDriveLow (d : SlotDone) : (s.endSlot d).owDriveLow = s.owDriveLow := rfl
@[simp] theorem State.endSlot_bus (d : SlotDone) : (s.endSlot d).bus = s.bus.observe s.cfg d := rfl
@[simp] theorem State.endSlot_draws (d : SlotDone) : (s.endSlot d).draws = s.draws := rfl
@[simp] theorem State.endSlot_slots (d : SlotDone) : (s.endSlot d).slots = d :: s.slots := rfl
@[simp] theorem State.endSlot_now (d : SlotDone) : (s.endSlot d).now = s.now := rfl
@[simp] theorem State.endSlot_host (d : SlotDone) : (s.endSlot d).host = s.host := rfl
@[simp] theorem State.endSlot_reads (d : SlotDone) : (s.endSlot d).reads = s.reads := rfl
@[simp] theorem State.endSlot_readDraws (d : SlotDone) : (s.endSlot d).readDraws = s.readDraws := rfl

-- complete
@[simp] theorem State.complete_cfg : (s.complete).cfg = s.cfg := rfl
@[simp] theorem State.complete_phase : (s.complete).phase = .idle := rfl
@[simp] theorem State.complete_presence : (s.complete).presence = s.presence := rfl
@[simp] theorem State.complete_found : (s.complete).found = s.found := rfl
@[simp] theorem State.complete_ldf : (s.complete).ldf = s.ldf := rfl
@[simp] theorem State.complete_crcOk : (s.complete).crcOk = s.crcOk := rfl
@[simp] theorem State.complete_ovr : (s.complete).ovr = s.ovr := rfl
@[simp] theorem State.complete_ill : (s.complete).ill = s.ill := rfl
@[simp] theorem State.complete_data : (s.complete).data = s.data := rfl
@[simp] theorem State.complete_crc : (s.complete).crc = s.crc := rfl
@[simp] theorem State.complete_ld : (s.complete).ld = s.ld := rfl
@[simp] theorem State.complete_lfd : (s.complete).lfd = s.lfd := rfl
@[simp] theorem State.complete_sresult : (s.complete).sresult = s.sresult := rfl
@[simp] theorem State.complete_rom : (s.complete).rom = s.rom := rfl
@[simp] theorem State.complete_matchAddr : (s.complete).matchAddr = s.matchAddr := rfl
@[simp] theorem State.complete_owDriveLow : (s.complete).owDriveLow = false := rfl
@[simp] theorem State.complete_bus : (s.complete).bus = s.bus := rfl
@[simp] theorem State.complete_draws : (s.complete).draws = s.draws := rfl
@[simp] theorem State.complete_slots : (s.complete).slots = s.slots := rfl
@[simp] theorem State.complete_now : (s.complete).now = s.now := rfl
@[simp] theorem State.complete_host : (s.complete).host = s.host := rfl
@[simp] theorem State.complete_reads : (s.complete).reads = s.reads := rfl
@[simp] theorem State.complete_readDraws : (s.complete).readDraws = s.readDraws := rfl

-- clearSearch
@[simp] theorem State.clearSearch_cfg : (s.clearSearch).cfg = s.cfg := rfl
@[simp] theorem State.clearSearch_phase : (s.clearSearch).phase = s.phase := rfl
@[simp] theorem State.clearSearch_presence : (s.clearSearch).presence = s.presence := rfl
@[simp] theorem State.clearSearch_found : (s.clearSearch).found = s.found := rfl
@[simp] theorem State.clearSearch_ldf : (s.clearSearch).ldf = false := rfl
@[simp] theorem State.clearSearch_crcOk : (s.clearSearch).crcOk = s.crcOk := rfl
@[simp] theorem State.clearSearch_ovr : (s.clearSearch).ovr = s.ovr := rfl
@[simp] theorem State.clearSearch_ill : (s.clearSearch).ill = s.ill := rfl
@[simp] theorem State.clearSearch_data : (s.clearSearch).data = s.data := rfl
@[simp] theorem State.clearSearch_crc : (s.clearSearch).crc = s.crc := rfl
@[simp] theorem State.clearSearch_ld : (s.clearSearch).ld = 0 := rfl
@[simp] theorem State.clearSearch_lfd : (s.clearSearch).lfd = 0 := rfl
@[simp] theorem State.clearSearch_sresult : (s.clearSearch).sresult = s.sresult := rfl
@[simp] theorem State.clearSearch_rom : (s.clearSearch).rom = s.rom := rfl
@[simp] theorem State.clearSearch_matchAddr : (s.clearSearch).matchAddr = s.matchAddr := rfl
@[simp] theorem State.clearSearch_owDriveLow : (s.clearSearch).owDriveLow = s.owDriveLow := rfl
@[simp] theorem State.clearSearch_bus : (s.clearSearch).bus = s.bus := rfl
@[simp] theorem State.clearSearch_draws : (s.clearSearch).draws = s.draws := rfl
@[simp] theorem State.clearSearch_slots : (s.clearSearch).slots = s.slots := rfl
@[simp] theorem State.clearSearch_now : (s.clearSearch).now = s.now := rfl
@[simp] theorem State.clearSearch_host : (s.clearSearch).host = s.host := rfl
@[simp] theorem State.clearSearch_reads : (s.clearSearch).reads = s.reads := rfl
@[simp] theorem State.clearSearch_readDraws : (s.clearSearch).readDraws = s.readDraws := rfl

-- clearStickyFlags
@[simp] theorem State.clearStickyFlags_cfg (v : Byte) : (s.clearStickyFlags v).cfg = s.cfg := rfl
@[simp] theorem State.clearStickyFlags_phase (v : Byte) : (s.clearStickyFlags v).phase = s.phase := rfl
@[simp] theorem State.clearStickyFlags_presence (v : Byte) : (s.clearStickyFlags v).presence = s.presence := rfl
@[simp] theorem State.clearStickyFlags_found (v : Byte) : (s.clearStickyFlags v).found = s.found := rfl
@[simp] theorem State.clearStickyFlags_ldf (v : Byte) : (s.clearStickyFlags v).ldf = s.ldf := rfl
@[simp] theorem State.clearStickyFlags_crcOk (v : Byte) : (s.clearStickyFlags v).crcOk = s.crcOk := rfl
@[simp] theorem State.clearStickyFlags_ovr (v : Byte) : (s.clearStickyFlags v).ovr = (s.ovr && !bitOf v 5) := rfl
@[simp] theorem State.clearStickyFlags_ill (v : Byte) : (s.clearStickyFlags v).ill = (s.ill && !bitOf v 6) := rfl
@[simp] theorem State.clearStickyFlags_data (v : Byte) : (s.clearStickyFlags v).data = s.data := rfl
@[simp] theorem State.clearStickyFlags_crc (v : Byte) : (s.clearStickyFlags v).crc = s.crc := rfl
@[simp] theorem State.clearStickyFlags_ld (v : Byte) : (s.clearStickyFlags v).ld = s.ld := rfl
@[simp] theorem State.clearStickyFlags_lfd (v : Byte) : (s.clearStickyFlags v).lfd = s.lfd := rfl
@[simp] theorem State.clearStickyFlags_sresult (v : Byte) : (s.clearStickyFlags v).sresult = s.sresult := rfl
@[simp] theorem State.clearStickyFlags_rom (v : Byte) : (s.clearStickyFlags v).rom = s.rom := rfl
@[simp] theorem State.clearStickyFlags_matchAddr (v : Byte) : (s.clearStickyFlags v).matchAddr = s.matchAddr := rfl
@[simp] theorem State.clearStickyFlags_owDriveLow (v : Byte) : (s.clearStickyFlags v).owDriveLow = s.owDriveLow := rfl
@[simp] theorem State.clearStickyFlags_bus (v : Byte) : (s.clearStickyFlags v).bus = s.bus := rfl
@[simp] theorem State.clearStickyFlags_draws (v : Byte) : (s.clearStickyFlags v).draws = s.draws := rfl
@[simp] theorem State.clearStickyFlags_slots (v : Byte) : (s.clearStickyFlags v).slots = s.slots := rfl
@[simp] theorem State.clearStickyFlags_now (v : Byte) : (s.clearStickyFlags v).now = s.now := rfl
@[simp] theorem State.clearStickyFlags_host (v : Byte) : (s.clearStickyFlags v).host = s.host := rfl
@[simp] theorem State.clearStickyFlags_reads (v : Byte) : (s.clearStickyFlags v).reads = s.reads := rfl
@[simp] theorem State.clearStickyFlags_readDraws (v : Byte) : (s.clearStickyFlags v).readDraws = s.readDraws := rfl

-- standAt
@[simp] theorem State.standAt_cfg (i : Instr) (r : Run) : (s.standAt i r).cfg = s.cfg := rfl
@[simp] theorem State.standAt_phase (i : Instr) (r : Run) : (s.standAt i r).phase = .run r := rfl
@[simp] theorem State.standAt_presence (i : Instr) (r : Run) : (s.standAt i r).presence = s.presence := rfl
@[simp] theorem State.standAt_found (i : Instr) (r : Run) : (s.standAt i r).found = s.found := rfl
@[simp] theorem State.standAt_ldf (i : Instr) (r : Run) : (s.standAt i r).ldf = s.ldf := rfl
@[simp] theorem State.standAt_crcOk (i : Instr) (r : Run) : (s.standAt i r).crcOk = s.crcOk := rfl
@[simp] theorem State.standAt_ovr (i : Instr) (r : Run) : (s.standAt i r).ovr = s.ovr := rfl
@[simp] theorem State.standAt_ill (i : Instr) (r : Run) : (s.standAt i r).ill = s.ill := rfl
@[simp] theorem State.standAt_data (i : Instr) (r : Run) : (s.standAt i r).data = s.data := rfl
@[simp] theorem State.standAt_crc (i : Instr) (r : Run) : (s.standAt i r).crc = s.crc := rfl
@[simp] theorem State.standAt_ld (i : Instr) (r : Run) : (s.standAt i r).ld = s.ld := rfl
@[simp] theorem State.standAt_lfd (i : Instr) (r : Run) : (s.standAt i r).lfd = s.lfd := rfl
@[simp] theorem State.standAt_sresult (i : Instr) (r : Run) : (s.standAt i r).sresult = s.sresult := rfl
@[simp] theorem State.standAt_rom (i : Instr) (r : Run) : (s.standAt i r).rom = s.rom := rfl
@[simp] theorem State.standAt_matchAddr (i : Instr) (r : Run) : (s.standAt i r).matchAddr = s.matchAddr := rfl
@[simp] theorem State.standAt_owDriveLow (i : Instr) (r : Run) : (s.standAt i r).owDriveLow = r.driveLow i s := rfl
@[simp] theorem State.standAt_bus (i : Instr) (r : Run) : (s.standAt i r).bus = s.bus := rfl
@[simp] theorem State.standAt_draws (i : Instr) (r : Run) : (s.standAt i r).draws = s.draws := rfl
@[simp] theorem State.standAt_slots (i : Instr) (r : Run) : (s.standAt i r).slots = s.slots := rfl
@[simp] theorem State.standAt_now (i : Instr) (r : Run) : (s.standAt i r).now = s.now := rfl
@[simp] theorem State.standAt_host (i : Instr) (r : Run) : (s.standAt i r).host = s.host := rfl
@[simp] theorem State.standAt_reads (i : Instr) (r : Run) : (s.standAt i r).reads = s.reads := rfl
@[simp] theorem State.standAt_readDraws (i : Instr) (r : Run) : (s.standAt i r).readDraws = s.readDraws := rfl

-- blockReset
@[simp] theorem State.blockReset_cfg : (s.blockReset).cfg = s.cfg := rfl
@[simp] theorem State.blockReset_phase : (s.blockReset).phase = .idle := rfl
@[simp] theorem State.blockReset_presence : (s.blockReset).presence = false := rfl
@[simp] theorem State.blockReset_found : (s.blockReset).found = false := rfl
@[simp] theorem State.blockReset_ldf : (s.blockReset).ldf = false := rfl
@[simp] theorem State.blockReset_crcOk : (s.blockReset).crcOk = false := rfl
@[simp] theorem State.blockReset_ovr : (s.blockReset).ovr = false := rfl
@[simp] theorem State.blockReset_ill : (s.blockReset).ill = false := rfl
@[simp] theorem State.blockReset_data : (s.blockReset).data = 0x00 := rfl
@[simp] theorem State.blockReset_crc : (s.blockReset).crc = 0x00 := rfl
@[simp] theorem State.blockReset_ld : (s.blockReset).ld = 0 := rfl
@[simp] theorem State.blockReset_lfd : (s.blockReset).lfd = 0 := rfl
@[simp] theorem State.blockReset_sresult : (s.blockReset).sresult = .none := rfl
@[simp] theorem State.blockReset_rom : (s.blockReset).rom = Address.zero := rfl
@[simp] theorem State.blockReset_matchAddr : (s.blockReset).matchAddr = Address.zero := rfl
@[simp] theorem State.blockReset_owDriveLow : (s.blockReset).owDriveLow = false := rfl
@[simp] theorem State.blockReset_bus : (s.blockReset).bus = s.bus := rfl
@[simp] theorem State.blockReset_draws : (s.blockReset).draws = s.draws := rfl
@[simp] theorem State.blockReset_slots : (s.blockReset).slots = s.slots := rfl
@[simp] theorem State.blockReset_now : (s.blockReset).now = s.now := rfl
@[simp] theorem State.blockReset_host : (s.blockReset).host = s.host := rfl
@[simp] theorem State.blockReset_reads : (s.blockReset).reads = s.reads := rfl
@[simp] theorem State.blockReset_readDraws : (s.blockReset).readDraws = s.readDraws := rfl

-- BUSY (R33)
@[simp] theorem State.busy_of_idle {s : State} (h : s.phase = .idle) : s.busy = false := by simp [State.busy, h]

@[simp] theorem State.busy_of_run {s : State} {r : Run} (h : s.phase = .run r) : s.busy = true := by
  simp [State.busy, h]

theorem State.busy_eq_true_iff {s : State} : s.busy = true ↔ ∃ r, s.phase = .run r := by
  cases h : s.phase <;> simp [State.busy, h]

theorem State.busy_eq_false_iff {s : State} : s.busy = false ↔ s.phase = .idle := by
  cases h : s.phase <;> simp [State.busy, h]

@[simp] theorem State.complete_busy : s.complete.busy = false := rfl
@[simp] theorem State.standAt_busy (i : Instr) (r : Run) : (s.standAt i r).busy = true := rfl
@[simp] theorem State.blockReset_busy : s.blockReset.busy = false := rfl
@[simp] theorem State.elapse_busy (k : Nat) : (s.elapse k).busy = s.busy := rfl
@[simp] theorem State.afterSample_busy : s.afterSample.busy = s.busy := rfl
@[simp] theorem State.endSlot_busy (d : SlotDone) : (s.endSlot d).busy = s.busy := rfl

-- The host's view: time, samples and slots change no register and no flag.
@[simp] theorem State.elapse_regValue (k : Nat) (r : Reg) : (s.elapse k).regValue r = s.regValue r := by
  cases r <;> rfl
@[simp] theorem State.afterSample_regValue (r : Reg) : s.afterSample.regValue r = s.regValue r := by cases r <;> rfl
@[simp] theorem State.endSlot_regValue (d : SlotDone) (r : Reg) : (s.endSlot d).regValue r = s.regValue r := by
  cases r <;> rfl
@[simp] theorem State.elapse_flag (k : Nat) (f : Flag) : (s.elapse k).flag f = s.flag f := by cases f <;> rfl
@[simp] theorem State.afterSample_flag (f : Flag) : s.afterSample.flag f = s.flag f := by cases f <;> rfl
@[simp] theorem State.endSlot_flag (d : SlotDone) (f : Flag) : (s.endSlot d).flag f = s.flag f := by cases f <;> rfl

/-- Commit and a new sequencer position change no register but STATUS, and no flag but BUSY. -/
theorem State.complete_regValue {r : Reg} (h : r ≠ .status) : s.complete.regValue r = s.regValue r := by
  cases r <;> first | exact absurd rfl h | rfl

theorem State.standAt_regValue (i : Instr) (q : Run) {r : Reg} (h : r ≠ .status) :
    (s.standAt i q).regValue r = s.regValue r := by
  cases r <;> first | exact absurd rfl h | rfl

theorem State.complete_flag {f : Flag} (h : f ≠ .busy) : s.complete.flag f = s.flag f := by
  cases f <;> first | exact absurd rfl h | rfl

theorem State.standAt_flag (i : Instr) (q : Run) {f : Flag} (h : f ≠ .busy) : (s.standAt i q).flag f = s.flag f := by
  cases f <;> first | exact absurd rfl h | rfl

end Sys2Proof.Machine
end

