-- ==== Sys2Proof/Laws/Crc.lean ====
section
/-! SUPPORT. The CRC of byte ranges (R210). -/

namespace Sys2Proof.Machine

@[simp] theorem crc8_nil : crc8 [] = 0x00 := rfl

/-- A byte range is fed one byte after another (R210). -/
theorem crc8_append_byte (bytes : List Byte) (v : Byte) : crc8 (bytes ++ [v]) = crc8Update (crc8 bytes) v := by
  simp [crc8, List.foldl_append]

theorem checkedBytes_eq (a : Address) :
    checkedBytes a = [addrByte a 0, addrByte a 1, addrByte a 2, addrByte a 3, addrByte a 4, addrByte a 5,
      addrByte a 6] := rfl

/-- One round of the update uses c and d only through the lowest bit of `c ^ d` (R210). -/
theorem crcRounds_succ (k : Nat) (c d : Byte) :
    crcRounds (k + 1) c d =
      crcRounds k (if (c ^^^ d) &&& 0x01 = 1 then (c >>> 1) ^^^ 0x8C else c >>> 1) (d >>> 1) := rfl

end Sys2Proof.Machine
end

