-- ==== Sys2Proof/Laws/Operands.lean ====
section
/-! SUPPORT. Bits of bytes and of device addresses (R17, R161, R165, R65, R66). -/

namespace Sys2Proof.Machine

/-- A written bit reads back, and no other bit of the byte changes. -/
theorem bitOf_setBit (v : Byte) (b : Bool) {i j : Nat} (hj : j < 8) :
    bitOf (setBit v i b) j = if j = i then b else bitOf v j := by
  have hs : (1#8 <<< i).getLsbD j = decide (j = i) := by
    simp only [BitVec.getLsbD_shiftLeft, BitVec.getLsbD_one, hj, decide_true, Bool.true_and]
    by_cases h : j = i
    · subst h; simp
    · have : ¬(i ≤ j ∧ j - i = 0) := by omega
      simp [h]
      omega
  unfold bitOf setBit
  cases b
  · simp only [BitVec.getLsbD_and, BitVec.getLsbD_not, hs, Bool.false_eq_true, if_false]
    by_cases h : j = i <;> simp [h, hj]
  · simp only [BitVec.getLsbD_or, hs, if_true]
    by_cases h : j = i <;> simp [h]

@[simp] theorem bitOf_zext8_zero (b : Bool) : bitOf (zext8 b) 0 = b := by cases b <;> rfl

@[simp] theorem length_bitsOf (v : Byte) : (bitsOf v).length = 8 := by simp [bitsOf]

theorem getElem?_bitsOf (v : Byte) {i : Nat} (h : i < 8) : (bitsOf v)[i]? = some (bitOf v i) := by simp [bitsOf, h]

theorem getElem?_bitsOf_of_le (v : Byte) {i : Nat} (h : 8 ≤ i) : (bitsOf v)[i]? = none := by simp [bitsOf, h]

/-- The bits of a byte, put together again, are the byte. -/
theorem byteOfBits_bitsOf : ∀ v : Byte, byteOfBits (bitsOf v) = v := by decide

@[simp] theorem length_addrBits (a : Address) : (addrBits a).length = 64 := by
  simp [addrBits, List.range_succ]

@[simp] theorem length_selectBits (s : State) : (selectBits s).length = 72 := by simp [selectBits]

theorem addrByte_eq_getElem (a : Address) {i : Nat} (h : i < 8) : addrByte a i = a[i] := by
  simp [addrByte, Vector.getD, h]

/-- Byte j of an address after bit n has been set (R165). -/
theorem addrByte_setRomBit (a : Address) (d : Bool) {n j : Nat} (hn : n ≤ 64) (hj : j < 8) :
    addrByte (setRomBit a n d) j =
      if j = (n - 1) / 8 then setBit (addrByte a j) ((n - 1) % 8) d else addrByte a j := by
  have hi : (n - 1) / 8 < 8 := by omega
  rw [addrByte_eq_getElem _ hj]
  unfold setRomBit
  rw [Vector.getElem_setIfInBounds hj]
  by_cases h : (n - 1) / 8 = j
  · subst h; simp
  · rw [if_neg h, if_neg (Ne.symm h), addrByte_eq_getElem a hj]

/-- ROMbit(n) after it has been set (R165). -/
theorem romBit_setRomBit_same (a : Address) (d : Bool) {n : Nat} (h1 : 1 ≤ n) (hn : n ≤ 64) :
    romBit (setRomBit a n d) n = d := by
  unfold romBit
  rw [addrByte_setRomBit a d hn (by omega), if_pos rfl, bitOf_setBit _ _ (by omega), if_pos rfl]

/-- Setting ROMbit(n) leaves every other bit of the buffer as it was (R165). -/
theorem romBit_setRomBit_of_ne (a : Address) (d : Bool) {n m : Nat} (h1 : 1 ≤ n) (hn : n ≤ 64) (m1 : 1 ≤ m)
    (hm : m ≤ 64) (h : m ≠ n) : romBit (setRomBit a n d) m = romBit a m := by
  unfold romBit
  rw [addrByte_setRomBit a d hn (by omega)]
  by_cases hb : (m - 1) / 8 = (n - 1) / 8
  · rw [if_pos hb, bitOf_setBit _ _ (by omega), if_neg (by omega)]
  · rw [if_neg hb]

/-- An address is its 64 bits (R161). -/
theorem address_ext_of_romBit {a b : Address} (h : ∀ n, 1 ≤ n → n ≤ 64 → romBit a n = romBit b n) : a = b := by
  apply Vector.ext
  intro i hi
  rw [← addrByte_eq_getElem a hi, ← addrByte_eq_getElem b hi]
  apply BitVec.eq_of_getLsbD_eq
  intro j hj
  have := h (8 * i + j + 1) (by omega) (by omega)
  have e1 : (8 * i + j + 1 - 1) / 8 = i := by omega
  have e2 : (8 * i + j + 1 - 1) % 8 = j := by omega
  unfold romBit bitOf at this
  rwa [e1, e2] at this

@[simp] theorem addrByte_zero (i : Nat) : addrByte Address.zero i = 0 := by
  rcases Nat.lt_or_ge i 8 with h | h
  · interval_cases i <;> rfl
  · simp [addrByte, Vector.getD, Nat.not_lt.mpr h]

@[simp] theorem romBit_zero (n : Nat) : romBit Address.zero n = false := by simp [romBit, bitOf]

end Sys2Proof.Machine
end

