-- ==== Sys2Proof/Laws/Ops.lean ====
section
/-! SUPPORT. What the slots do, said once: they change the bus population, the draws, the record of slots and the time,
and nothing else. -/

namespace Sys2Proof.Machine

/-- t is s but for the bus population, the draws, the record of slots and the time. -/
def OnlyBus (s t : State) : Prop :=
  t = { s with bus := t.bus, draws := t.draws, slots := t.slots, now := t.now }

theorem OnlyBus.refl (s : State) : OnlyBus s s := rfl

theorem OnlyBus.trans {s t u : State} (h : OnlyBus s t) (k : OnlyBus t u) : OnlyBus s u := by
  unfold OnlyBus at *
  rw [k, h]

theorem OnlyBus.regValue {s t : State} (h : OnlyBus s t) (r : Reg) : t.regValue r = s.regValue r := by
  rw [h]; cases r <;> rfl

theorem OnlyBus.flag {s t : State} (h : OnlyBus s t) (f : Flag) : t.flag f = s.flag f := by
  rw [h]; cases f <;> rfl

theorem OnlyBus.cfg {s t : State} (h : OnlyBus s t) : t.cfg = s.cfg := by rw [h]
theorem OnlyBus.host {s t : State} (h : OnlyBus s t) : t.host = s.host := by rw [h]
theorem OnlyBus.reads {s t : State} (h : OnlyBus s t) : t.reads = s.reads := by rw [h]
theorem OnlyBus.readDraws {s t : State} (h : OnlyBus s t) : t.readDraws = s.readDraws := by rw [h]
theorem OnlyBus.rom {s t : State} (h : OnlyBus s t) : t.rom = s.rom := by rw [h]
theorem OnlyBus.data {s t : State} (h : OnlyBus s t) : t.data = s.data := by rw [h]

theorem onlyBus_elapse (s : State) (k : Nat) : OnlyBus s (s.elapse k) := rfl
theorem onlyBus_startDelay (s : State) : OnlyBus s s.startDelay := rfl
theorem onlyBus_internalDelay (s : State) : OnlyBus s s.internalDelay := rfl
theorem onlyBus_afterSample (s : State) : OnlyBus s s.afterSample := rfl
theorem onlyBus_endSlot (s : State) (d : SlotDone) : OnlyBus s (s.endSlot d) := rfl
theorem onlyBus_resetSlot (s : State) : OnlyBus s (resetSlot s).2 := rfl
theorem onlyBus_readSlot (s : State) : OnlyBus s (readSlot s).2 := rfl
theorem onlyBus_writeSlot (b : Bool) (s : State) : OnlyBus s (writeSlot b s) := rfl

-- A reset slot (R114)
@[simp] theorem resetSlot_fst (s : State) : (resetSlot s).1 = !s.bus.pullsLow s.draws .reset := rfl
@[simp] theorem resetSlot_slots (s : State) : (resetSlot s).2.slots = .reset (resetSlot s).1 :: s.slots := rfl
@[simp] theorem resetSlot_now (s : State) : (resetSlot s).2.now = s.now + s.cfg.tRst := rfl
@[simp] theorem resetSlot_draws (s : State) : (resetSlot s).2.draws = s.draws + 1 := rfl
@[simp] theorem resetSlot_bus (s : State) :
    (resetSlot s).2.bus = s.bus.afterSample.observe s.cfg (.reset (resetSlot s).1) := rfl

-- A read slot (R116)
@[simp] theorem readSlot_fst (s : State) : (readSlot s).1 = !s.bus.pullsLow s.draws .read := rfl
@[simp] theorem readSlot_slots (s : State) : (readSlot s).2.slots = .read (readSlot s).1 :: s.slots := rfl
@[simp] theorem readSlot_now (s : State) : (readSlot s).2.now = s.now + s.cfg.tSlot := rfl
@[simp] theorem readSlot_draws (s : State) : (readSlot s).2.draws = s.draws + 1 := rfl
@[simp] theorem readSlot_bus (s : State) :
    (readSlot s).2.bus = s.bus.afterSample.observe s.cfg (.read (readSlot s).1) := rfl

-- A write slot (R115): no sample
@[simp] theorem writeSlot_slots (b : Bool) (s : State) : (writeSlot b s).slots = .write b :: s.slots := rfl
@[simp] theorem writeSlot_now (b : Bool) (s : State) : (writeSlot b s).now = s.now + s.cfg.tSlot := rfl
@[simp] theorem writeSlot_draws (b : Bool) (s : State) : (writeSlot b s).draws = s.draws := rfl
@[simp] theorem writeSlot_bus (b : Bool) (s : State) : (writeSlot b s).bus = s.bus.observe s.cfg (.write b) := rfl
@[simp] theorem writeSlot_cfg (b : Bool) (s : State) : (writeSlot b s).cfg = s.cfg := rfl

-- A run of write slots (R117, R119)
@[simp] theorem writeBits_nil (s : State) : writeBits [] s = s := rfl
@[simp] theorem writeBits_cons (b : Bool) (bits : List Bool) (s : State) :
    writeBits (b :: bits) s = writeBits bits (writeSlot b s) := rfl

theorem writeBits_append (xs ys : List Bool) (s : State) :
    writeBits (xs ++ ys) s = writeBits ys (writeBits xs s) := by
  simp [writeBits, List.foldl_append]

theorem onlyBus_writeBits (bits : List Bool) (s : State) : OnlyBus s (writeBits bits s) := by
  induction bits generalizing s with
  | nil => exact OnlyBus.refl s
  | cons b bits ih => exact (onlyBus_writeSlot b s).trans (ih _)

/-- A run of write slots takes no sample, stands in the record newest first, and lasts `T_SLOT` a bit. -/
theorem writeBits_spec (bits : List Bool) (s : State) :
    (writeBits bits s).slots = (bits.map SlotDone.write).reverse ++ s.slots ∧
    (writeBits bits s).draws = s.draws ∧ (writeBits bits s).now = s.now + bits.length * s.cfg.tSlot := by
  induction bits generalizing s with
  | nil => simp
  | cons b bits ih =>
    obtain ⟨h1, h2, h3⟩ := ih (writeSlot b s)
    refine ⟨by simp [h1], by simp [h2], ?_⟩
    simp [h3, Nat.add_mul]
    omega

theorem onlyBus_readBitsFrom (k : Nat) (r : Byte) (s : State) : OnlyBus s (readBitsFrom k r s).2 := by
  induction k generalizing r s with
  | zero => exact OnlyBus.refl s
  | succ k ih => exact (onlyBus_readSlot s).trans (ih _ _)

theorem onlyBus_searchPositions (k : Nat) (old : Address) (p : Pass) (s : State) :
    OnlyBus s (searchPositions k old p s).2 := by
  induction k generalizing p s with
  | zero => exact OnlyBus.refl s
  | succ k ih =>
    simp only [searchPositions]
    split
    · exact (onlyBus_readSlot s).trans (onlyBus_readSlot _)
    · exact ((onlyBus_readSlot s).trans (onlyBus_readSlot _)).trans ((onlyBus_writeSlot _ _).trans (ih _ _))

-- The commit of a pass (R168 to R171)
section commitPass
variable (p : Pass) (s : State)

@[simp] theorem commitPass_phase : (commitPass p s).phase = .idle := rfl
@[simp] theorem commitPass_owDriveLow : (commitPass p s).owDriveLow = false := rfl
@[simp] theorem commitPass_rom : (commitPass p s).rom = p.rom := rfl
@[simp] theorem commitPass_presence : (commitPass p s).presence = p.presence := rfl
@[simp] theorem commitPass_sresult : (commitPass p s).sresult = p.outcome := rfl
@[simp] theorem commitPass_found : (commitPass p s).found = decide (p.outcome = .found) := rfl
@[simp] theorem commitPass_slots : (commitPass p s).slots = s.slots := rfl
@[simp] theorem commitPass_bus : (commitPass p s).bus = s.bus := rfl
@[simp] theorem commitPass_draws : (commitPass p s).draws = s.draws := rfl
@[simp] theorem commitPass_now : (commitPass p s).now = s.now := rfl
@[simp] theorem commitPass_cfg : (commitPass p s).cfg = s.cfg := rfl
@[simp] theorem commitPass_host : (commitPass p s).host = s.host := rfl
@[simp] theorem commitPass_reads : (commitPass p s).reads = s.reads := rfl
@[simp] theorem commitPass_readDraws : (commitPass p s).readDraws = s.readDraws := rfl
@[simp] theorem commitPass_data : (commitPass p s).data = s.data := rfl
@[simp] theorem commitPass_crc : (commitPass p s).crc = s.crc := rfl
@[simp] theorem commitPass_crcOk : (commitPass p s).crcOk = s.crcOk := rfl
@[simp] theorem commitPass_ovr : (commitPass p s).ovr = s.ovr := rfl
@[simp] theorem commitPass_ill : (commitPass p s).ill = s.ill := rfl
@[simp] theorem commitPass_matchAddr : (commitPass p s).matchAddr = s.matchAddr := rfl

theorem commitPass_of_found (h : p.outcome = .found) :
    (commitPass p s).ld = BitVec.ofNat 8 p.lastZero ∧ (commitPass p s).lfd = p.lfd ∧
    (commitPass p s).ldf = decide (p.lastZero = 0) := by
  simp [commitPass, h]

/-- The failure clause (R169). -/
theorem commitPass_of_not_found (h : p.outcome ≠ .found) :
    (commitPass p s).ld = 0 ∧ (commitPass p s).lfd = 0 ∧ (commitPass p s).ldf = false := by
  simp [commitPass, h]

end commitPass

-- One position of a pass (R162 to R165)
theorem classify_of_fault {p : Pass} (old : Address) (h1 : p.idBit = true) (h2 : p.cmpBit = true) :
    p.classify old = { p with code := .busFault } := by
  simp [Pass.classify, h1, h2]

theorem classify_of_no_fault {p : Pass} (old : Address) (h : (p.idBit && p.cmpBit) = false) :
    p.classify old = p.takeDirection (p.direction old) := by
  simp [Pass.classify, h]

@[simp] theorem recordZero_n (p : Pass) : p.recordZero.n = p.n := by unfold Pass.recordZero; split <;> rfl
@[simp] theorem recordZero_rom (p : Pass) : p.recordZero.rom = p.rom := by unfold Pass.recordZero; split <;> rfl
@[simp] theorem recordZero_dir (p : Pass) : p.recordZero.dir = p.dir := by unfold Pass.recordZero; split <;> rfl
@[simp] theorem recordZero_ld (p : Pass) : p.recordZero.ld = p.ld := by unfold Pass.recordZero; split <;> rfl
@[simp] theorem recordZero_code (p : Pass) : p.recordZero.code = p.code := by unfold Pass.recordZero; split <;> rfl
@[simp] theorem recordZero_presence (p : Pass) : p.recordZero.presence = p.presence := by
  unfold Pass.recordZero; split <;> rfl
@[simp] theorem takeDirection_n (p : Pass) (d : Bool) : (p.takeDirection d).n = p.n := by simp [Pass.takeDirection]
@[simp] theorem takeDirection_dir (p : Pass) (d : Bool) : (p.takeDirection d).dir = d := by simp [Pass.takeDirection]
@[simp] theorem takeDirection_ld (p : Pass) (d : Bool) : (p.takeDirection d).ld = p.ld := by simp [Pass.takeDirection]
@[simp] theorem takeDirection_code (p : Pass) (d : Bool) : (p.takeDirection d).code = p.code := by
  simp [Pass.takeDirection]
@[simp] theorem takeDirection_presence (p : Pass) (d : Bool) : (p.takeDirection d).presence = p.presence := by
  simp [Pass.takeDirection]
@[simp] theorem takeDirection_rom (p : Pass) (d : Bool) : (p.takeDirection d).rom = setRomBit p.rom p.n d := by
  simp [Pass.takeDirection]

end Sys2Proof.Machine
end

