-- ==== Sys2Proof/Laws/PerInstr.lean ====
section
/-! SUPPORT. The families of statements about every instruction: `RoundTrip`, decoding the code of a command gives the
command back (R91, R94). -/

namespace Sys2Proof.Laws.RoundTrip

/-- The code of a command decodes to it. -/
def Statement (i : Instr) : Prop := decode (encode i) = .command i

theorem busReset : Statement .busReset := rfl
theorem writeBit : Statement .writeBit := rfl
theorem readBit : Statement .readBit := rfl
theorem writeByte : Statement .writeByte := rfl
theorem readByte : Statement .readByte := rfl
theorem searchReset : Statement .searchReset := rfl
theorem searchFirst : Statement .searchFirst := rfl
theorem searchNext : Statement .searchNext := rfl
theorem select : Statement .select := rfl
theorem crcClear : Statement .crcClear := rfl
theorem crcFeed : Statement .crcFeed := rfl
theorem crcRom : Statement .crcRom := rfl

end Sys2Proof.Laws.RoundTrip
end

