-- ==== Sys2Proof/Laws/Port.lean ====
section
/-! SUPPORT. The host port: the window (R60, R61), reads (R72) and writes (R71), said once for each kind of register. -/

namespace Sys2Proof.Machine

theorem windowOffset_base_add (c : OWCConfig) {off : Nat} (h : off < 32) : windowOffset c (c.base + off) = some off := by
  simp [windowOffset, inWindow, h]

theorem windowOffset_base (c : OWCConfig) : windowOffset c c.base = some 0 := windowOffset_base_add c (off := 0) (by omega)

/-- An address has an offset exactly when it lies in the window (R60). -/
theorem windowOffset_eq_some {c : OWCConfig} {addr off : Nat} :
    windowOffset c addr = some off ↔ addr = c.base + off ∧ off < 32 := by
  simp [windowOffset, inWindow]
  omega

theorem windowOffset_eq_none {c : OWCConfig} {addr : Nat} :
    windowOffset c addr = none ↔ addr < c.base ∨ c.base + 32 ≤ addr := by
  simp [windowOffset, inWindow]
  omega

/-- The register map is one to one (R61, R64). -/
theorem regAt_offsetOf (r : Reg) : regAt (offsetOf r) = some r := by
  cases r with
  | rom i => fin_cases i <;> rfl
  | mtch i => fin_cases i <;> rfl
  | _ => rfl

theorem offsetOf_lt (r : Reg) : offsetOf r < 0x18 := by
  cases r <;> simp [offsetOf] <;> omega

theorem readReg_of_idle {s : State} (h : s.busy = false) (any : Byte) (r : Reg) : s.readReg any r = s.regValue r := by
  simp [State.readReg, h]

theorem hostRead_of_reg (s : State) (r : Reg) : hostRead s (offsetOf r) = s.readReg (Config.freeByte s.readDraws) r := by
  simp [hostRead, regAt_offsetOf]

/-- A host read changes the record of reads and its count, and nothing else (R69). -/
theorem afterRead_eq (s : State) (off : Nat) :
    s.afterRead off = { s with reads := hostRead s off :: s.reads, readDraws := s.readDraws + 1 } := rfl

theorem storeIfIdle_of_busy {s : State} (h : s.busy = true) (u : State) : s.storeIfIdle u = { s with ovr := true } := by
  simp [State.storeIfIdle, h]

theorem storeIfIdle_of_idle {s : State} (h : s.busy = false) (u : State) : s.storeIfIdle u = u := by
  simp [State.storeIfIdle, h]

theorem writeCmd_of_busy {s : State} (h : s.busy = true) (v : Byte) : s.writeCmd v = { s with ovr := true } := by
  simp [State.writeCmd, h]

theorem writeCmd_of_command {s : State} (h : s.busy = false) {v : Byte} {i : Instr} (hv : decode v = .command i) :
    s.writeCmd v = s.accept i v := by
  simp [State.writeCmd, h, hv]

theorem writeCmd_of_illegal {s : State} (h : s.busy = false) {v : Byte} (hv : decode v = .illegal) :
    s.writeCmd v = { s with ill := true } := by
  simp [State.writeCmd, h, hv]

/-- Everything a host write can do (R71). -/
theorem hostWrite_cases (s : State) (off : Nat) (v : Byte) :
    (off = 0x00 ∧ hostWrite s off v = s.writeCmd v) ∨
    (off = 0x01 ∧ hostWrite s off v = s.clearStickyFlags v) ∨
    (off = 0x02 ∧ hostWrite s off v = s.storeIfIdle { s with data := v }) ∨
    (∃ i : Fin 8, off = 0x10 + i.val ∧ hostWrite s off v = s.storeIfIdle { s with matchAddr := s.matchAddr.set i v }) ∨
    (((0x03 ≤ off ∧ off < 0x10) ∨ 0x18 ≤ off) ∧ hostWrite s off v = s) := by
  rcases Nat.lt_or_ge off 0x18 with h | h
  · interval_cases off
    · exact .inl ⟨rfl, rfl⟩
    · exact .inr (.inl ⟨rfl, rfl⟩)
    · exact .inr (.inr (.inl ⟨rfl, rfl⟩))
    all_goals first
      | exact .inr (.inr (.inr (.inr ⟨by omega, rfl⟩)))
      | exact .inr (.inr (.inr (.inl ⟨0, rfl, rfl⟩)))
      | exact .inr (.inr (.inr (.inl ⟨1, rfl, rfl⟩)))
      | exact .inr (.inr (.inr (.inl ⟨2, rfl, rfl⟩)))
      | exact .inr (.inr (.inr (.inl ⟨3, rfl, rfl⟩)))
      | exact .inr (.inr (.inr (.inl ⟨4, rfl, rfl⟩)))
      | exact .inr (.inr (.inr (.inl ⟨5, rfl, rfl⟩)))
      | exact .inr (.inr (.inr (.inl ⟨6, rfl, rfl⟩)))
      | exact .inr (.inr (.inr (.inl ⟨7, rfl, rfl⟩)))
  · refine .inr (.inr (.inr (.inr ⟨.inr h, ?_⟩)))
    have : regAt off = none := by
      unfold regAt
      split <;> first | omega | rfl
    simp [hostWrite, this]

end Sys2Proof.Machine
end

