-- ==== Sys2Proof/Laws/Sequencer.lean ====
section
/-! SUPPORT. What a tick of the sequencer can do (R33, R36, R119), and what the start of a command is (R71). -/

namespace Sys2Proof.Machine

/-- The slot a command stands in depends on the state by its operand registers and the parameters alone (R92). -/
theorem currentSlot_congr {s t : State} (i : Instr) (r : Run) (hc : t.cfg = s.cfg) (hd : t.data = s.data)
    (hm : t.matchAddr = s.matchAddr) : currentSlot i t r = currentSlot i s r := by
  cases i <;> simp [currentSlot, selectBits, hc, hd, hm]

theorem driveLow_congr {s t : State} (i : Instr) (r : Run) (hc : t.cfg = s.cfg) (hd : t.data = s.data)
    (hm : t.matchAddr = s.matchAddr) : r.driveLow i t = r.driveLow i s := by
  simp [Run.driveLow, currentSlot_congr i r hc hd hm, hc]

@[simp] theorem startRun_curCmd (i : Instr) (s : State) (v : Byte) : (startRun i s v).curCmd = v := rfl
@[simp] theorem startRun_step (i : Instr) (s : State) (v : Byte) : (startRun i s v).step = 0 := rfl
@[simp] theorem startRun_tickCount (i : Instr) (s : State) (v : Byte) : (startRun i s v).tickCount = 0 := rfl
@[simp] theorem startRun_pass (i : Instr) (s : State) (v : Byte) : (startRun i s v).pass = startPass i s := rfl

@[simp] theorem accept_phase (s : State) (i : Instr) (v : Byte) :
    (s.accept i v).phase = .run (startRun i s v) := rfl

@[simp] theorem accept_busy (s : State) (i : Instr) (v : Byte) : (s.accept i v).busy = true := rfl

@[simp] theorem ticks_zero (s : State) : ticks 0 s = s := rfl

theorem ticks_succ (k : Nat) (s : State) : ticks (k + 1) s = ticks k (tick s) := rfl

theorem ticks_add (m n : Nat) (s : State) : ticks (m + n) s = ticks n (ticks m s) := by
  induction m generalizing s with
  | zero => simp
  | succ m ih => rw [Nat.succ_add, ticks_succ, ih, ticks_succ]

theorem tick_of_idle {s : State} (h : s.phase = .idle) : tick s = s.elapse 1 := by simp [tick, h]

theorem tick_of_run {s : State} {r : Run} {i : Instr} (h : s.phase = .run r) (hi : decode r.curCmd = .command i) :
    tick s = runTick i (s.elapse 1) r := by
  simp [tick, h, hi]

/-- A slot that ends: the command commits if no slot is left, and otherwise stands at the next one (R36, R119). -/
theorem finishSlot_cases (i : Instr) (k : SlotKind) (s : State) (r : Run) :
    (currentSlot i s (r.afterSlot i s.rom) = none ∧
      finishSlot i k s r = commitRun i (s.endSlot (slotDone k r.sample)) (r.afterSlot i s.rom)) ∨
    ((currentSlot i s (r.afterSlot i s.rom)).isSome ∧
      finishSlot i k s r = (s.endSlot (slotDone k r.sample)).standAt i (r.afterSlot i s.rom)) := by
  have hc := currentSlot_congr (s := s) (t := s.endSlot (slotDone k r.sample)) i (r.afterSlot i s.rom) rfl rfl rfl
  unfold finishSlot
  rw [← hc]
  cases h : currentSlot i (s.endSlot (slotDone k r.sample)) (r.afterSlot i s.rom) with
  | none => exact .inl ⟨rfl, by simp only [h]⟩
  | some _ => exact .inr ⟨rfl, by simp only [h]⟩

/-- A sample changes the bus population and the draws alone (R113). -/
theorem onlyBus_takeSample (k : SlotKind) (t : Nat) (s : State) (r : Run) : OnlyBus s (takeSample k t s r).1 := by
  unfold takeSample
  split
  · exact onlyBus_afterSample s
  · exact OnlyBus.refl s

/-- Everything a tick of a running command can do (R33, R36). -/
theorem runTick_cases (i : Instr) (s : State) (r : Run) :
    (r.waitLeft ≠ 0 ∧ runTick i s r = s.standAt i { r with waitLeft := r.waitLeft - 1 }) ∨
    (r.waitLeft = 0 ∧ currentSlot i s r = none ∧ s.cfg.tInt ≤ r.tickCount + 1 ∧ runTick i s r = commitRun i s r) ∨
    (r.waitLeft = 0 ∧ currentSlot i s r = none ∧ r.tickCount + 1 < s.cfg.tInt ∧
      runTick i s r = s.standAt i { r with tickCount := r.tickCount + 1 }) ∨
    ∃ k, r.waitLeft = 0 ∧ currentSlot i s r = some k ∧ runTick i s r = slotTick i k s r := by
  unfold runTick
  by_cases hw : r.waitLeft ≠ 0
  · exact .inl ⟨hw, by simp [hw]⟩
  · rw [if_neg hw]
    have h0 : r.waitLeft = 0 := by omega
    cases hk : currentSlot i s r with
    | some k => exact .inr (.inr (.inr ⟨k, h0, rfl, rfl⟩))
    | none =>
      rcases Nat.lt_or_ge (r.tickCount + 1) s.cfg.tInt with h | h
      · exact .inr (.inr (.inl ⟨h0, rfl, h, by simp [Nat.not_le.mpr h]⟩))
      · exact .inr (.inl ⟨h0, rfl, h, by simp [h]⟩)

/-- A tick of a slot takes the sample at its instant, and ends the slot or stands one tick further (R114 to R116). -/
theorem slotTick_cases (i : Instr) (k : SlotKind) (s : State) (r : Run) :
    let u := takeSample k (r.tickCount + 1) s { r with tickCount := r.tickCount + 1 }
    (slotTicks s.cfg k ≤ r.tickCount + 1 ∧ slotTick i k s r = finishSlot i k u.1 u.2) ∨
    (r.tickCount + 1 < slotTicks s.cfg k ∧ slotTick i k s r = u.1.standAt i u.2) := by
  intro u
  rcases Nat.lt_or_ge (r.tickCount + 1) (slotTicks s.cfg k) with h | h
  · exact .inr ⟨h, by simp [slotTick, u, Nat.not_le.mpr h]⟩
  · exact .inl ⟨h, by simp [slotTick, u, h]⟩

end Sys2Proof.Machine
end

