-- ==== Sys2Proof/Laws/Turn.lean ====
section
/-! SUPPORT. What a step can do, said once (R9). -/

namespace Sys2Proof.Machine

/-- A step is a host event, or the sequencer's turn when none is to come. -/
theorem step_of_nil {s : State} (h : s.host = []) : step s = sequencerTurn s [] := by simp [step, nextStep, h]

theorem step_of_cons {s : State} {e : HostEvent} {rest : List HostEvent} (h : s.host = e :: rest) :
    step s = stepEvent e { s with host := rest } := by simp [step, nextStep, h]

theorem stepEvent_write {s : State} {addr off : Nat} (v : Byte) (h : windowOffset s.cfg addr = some off) :
    stepEvent (.write addr v) s = .next (hostWrite s off v) := by simp [stepEvent, h]

theorem stepEvent_read {s : State} {addr off : Nat} (h : windowOffset s.cfg addr = some off) :
    stepEvent (.read addr) s = .next (s.afterRead off) := by simp [stepEvent, h]

@[simp] theorem stepEvent_wide (s : State) (addr width : Nat) : stepEvent (.wide addr width) s = .refused .accessWidth :=
  rfl

@[simp] theorem stepEvent_tick (s : State) : stepEvent .tick s = .next (tick s) := rfl

@[simp] theorem stepEvent_rst (s : State) : stepEvent .rst s = .next (assertReset s) := rfl

/-- Everything the sequencer's turn can do: pass in IDLE, run a command not begun, or go on by a tick (R16, R33, R36). -/
theorem sequencerTurn_cases {s t : State} {rest : List HostEvent} (h : sequencerTurn s rest = .next t) :
    (s.phase = .idle ∧ t = { s with host := rest }) ∨
    ∃ r i, s.phase = .run r ∧ decode r.curCmd = .command i ∧
      ((r = startRun i s r.curCmd ∧ exec i { s with host := rest } = .next t) ∨
        (r ≠ startRun i s r.curCmd ∧ t = tick s)) := by
  unfold sequencerTurn at h
  cases hp : s.phase with
  | idle =>
    simp only [hp] at h
    exact .inl ⟨rfl, (Host.Outcome.next.inj h).symm⟩
  | run r =>
    simp only [hp] at h
    cases hi : decode r.curCmd with
    | illegal => simp [hi] at h
    | command i =>
      simp only [hi] at h
      refine .inr ⟨r, i, rfl, hi, ?_⟩
      by_cases hb : r = startRun i s r.curCmd
      · rw [if_pos (by simpa [notBegun] using hb)] at h
        exact .inl ⟨hb, h⟩
      · rw [if_neg (by simpa [notBegun] using hb)] at h
        exact .inr ⟨hb, (Host.Outcome.next.inj h).symm⟩

/-- Everything a step can do, by the next host event. -/
theorem step_cases {s t : State} (h : step s = .next t) :
    (s.host = [] ∧ sequencerTurn s [] = .next t) ∨
    (∃ rest, s.host = .wait :: rest ∧ sequencerTurn s rest = .next t) ∨
    (∃ rest, s.host = .tick :: rest ∧ t = tick { s with host := rest }) ∨
    (∃ rest, s.host = .rst :: rest ∧ t = assertReset { s with host := rest }) ∨
    (∃ off v rest, s.host = .write (s.cfg.base + off) v :: rest ∧ off < 32 ∧
      t = hostWrite { s with host := rest } off v) ∨
    (∃ off rest, s.host = .read (s.cfg.base + off) :: rest ∧ off < 32 ∧
      t = State.afterRead { s with host := rest } off) := by
  cases hh : s.host with
  | nil => exact .inl ⟨rfl, by rw [← step_of_nil hh, h]⟩
  | cons e rest =>
    rw [step_of_cons hh] at h
    cases e with
    | write addr v =>
      cases ho : windowOffset s.cfg addr with
      | none => simp [stepEvent, ho] at h
      | some off =>
        obtain ⟨rfl, hlt⟩ := windowOffset_eq_some.mp ho
        rw [stepEvent_write (s := { s with host := rest }) v ho] at h
        exact .inr (.inr (.inr (.inr (.inl ⟨off, v, rest, rfl, hlt, (Host.Outcome.next.inj h).symm⟩))))
    | read addr =>
      cases ho : windowOffset s.cfg addr with
      | none => simp [stepEvent, ho] at h
      | some off =>
        obtain ⟨rfl, hlt⟩ := windowOffset_eq_some.mp ho
        rw [stepEvent_read (s := { s with host := rest }) ho] at h
        exact .inr (.inr (.inr (.inr (.inr ⟨off, rest, rfl, hlt, (Host.Outcome.next.inj h).symm⟩))))
    | wide addr width => simp at h
    | tick => exact .inr (.inr (.inl ⟨rest, rfl, (Host.Outcome.next.inj h).symm⟩))
    | rst => exact .inr (.inr (.inr (.inl ⟨rest, rfl, (Host.Outcome.next.inj h).symm⟩)))
    | wait =>
      refine .inr (.inl ⟨rest, rfl, ?_⟩)
      have he : ({ s with host := .wait :: rest } : State) = s := by rw [← hh]
      simpa [stepEvent, he] using h

theorem cutSlot_of_idle {s : State} (h : s.phase = .idle) : cutSlot s = none := by simp [cutSlot, h]

/-- The slot block reset cuts is the one the command stands in, once `T_START` has passed (R119, R260). -/
theorem cutSlot_of_run {s : State} {r : Run} {i : Instr} (h : s.phase = .run r) (hi : decode r.curCmd = .command i) :
    cutSlot s = if r.waitLeft ≠ 0 then none else (currentSlot i s r).map fun k => .cut k r.tickCount := by
  simp [cutSlot, h, hi]

/-- What a cut slot leaves of the bus population: RefBus is unknown, the others are as they were (R261, U16). -/
theorem observe_cut (c : OWCConfig) (p : Population) (k : SlotKind) (n : Nat) :
    p.observe c (.cut k n) = match p with
      | .ref b => .ref { b with mode := .unknown }
      | q => q := by
  cases p <;> rfl

/-- Block reset, with the record of the slot it cut (R260). -/
theorem assertReset_cases (s : State) :
    (cutSlot s = none ∧ assertReset s = s.blockReset) ∨
    ∃ d, cutSlot s = some d ∧ assertReset s = (s.endSlot d).blockReset := by
  unfold assertReset
  cases h : cutSlot s with
  | none => exact .inl ⟨rfl, rfl⟩
  | some d => exact .inr ⟨d, rfl, rfl⟩

end Sys2Proof.Machine
end

