-- ==== Sys2Proof/Tests/Slice0.lean ====
section
/-! SUPPORT. The model's own tests. Expected results are the spec's: 30_encoding.md R91 and R93, and the vectors of
95_test_vectors.md (T, S, SE, CR, HI, RS). Then one witness for each statement that has hypotheses. -/

namespace Sys2Proof.Tests

open Sys2Proof.Machine

-- One theorem after another: the evaluations below would otherwise hold many threads, each with its stack, at once.
set_option Elab.async false

-- ==== Helpers ====

/-- Address A of 95_test_vectors.md. -/
def addrA : Address := #v[0x28, 0xFF, 0x4A, 0x1D, 0x0B, 0x00, 0x00, 0x78]
/-- Address B: A with a 0 at search position 20. -/
def addrB : Address := #v[0x28, 0xFF, 0x42, 0x1D, 0x0B, 0x00, 0x00, 0x78]
/-- Address Z: family code 0x00. -/
def addrZ : Address := #v[0x00, 0x11, 0x22, 0x33, 0x44, 0x55, 0x66, 0x48]

/-- `RefBus` of the given addresses. -/
def refBus (addrs : List Address) : RefBus := ⟨addrs.map (⟨·, []⟩), [], [], .idle⟩
/-- The reset state on `RefBus`. -/
def onRef (addrs : List Address) : State := { State.reset with bus := .ref (refBus addrs) }
/-- The reset state with the given levels to come. -/
def onScript (levels : List Bool) : State := { State.reset with bus := .script levels }
/-- The state a command commits. -/
def after (i : Instr) (s : State) : State :=
  match exec i s with
  | .next t => t
  | .fault _ => s
  | .refused _ => s
/-- The state after a step with the event e next. -/
def afterEvent (e : HostEvent) (s : State) : State :=
  match step { s with host := [e] } with
  | .next t => t
  | .fault _ => s
  | .refused _ => s
/-- READ_BIT accepted and not begun. -/
def busyState : State := State.reset.accept .readBit 0x03
/-- A configuration with short intervals. -/
def shortCfg : OWCConfig :=
  { OWCConfig.default with
    tRstl := 3, tMsp := 1, tRstrec := 1, tSlot := 5, tLow1 := 1, tLow0 := 3, tRl := 1, tMsr := 1, tInt := 2, tStart := 2 }

-- ==== WellFormed: each check refuses an ill-formed term ====

theorem test_wellFormed_refuses_address_below : HostEvent.wellFormed { OWCConfig.default with base := 64 } (.read 63) = false := by
  decide
theorem test_wellFormed_refuses_address_above : HostEvent.wellFormed OWCConfig.default (.write 32 0) = false := by decide
theorem test_wellFormed_accepts_window : HostEvent.wellFormed OWCConfig.default (.read 31) = true := by decide
theorem test_wellFormed_refuses_wide : HostEvent.wellFormed OWCConfig.default (.wide 2 2) = false := by decide
theorem test_wellFormed_refuses_low1_not_below_low0 :
    OWCConfig.wellFormed { OWCConfig.default with tLow1 := 60 } = false := by decide
theorem test_wellFormed_refuses_late_sample : OWCConfig.wellFormed { OWCConfig.default with tMsr := 64 } = false := by decide
theorem test_wellFormed_refuses_no_reset_pulse : OWCConfig.wellFormed { OWCConfig.default with tRstl := 0 } = false := by decide
theorem test_wellFormed_refuses_no_internal_time : OWCConfig.wellFormed { OWCConfig.default with tInt := 0 } = false := by
  decide
theorem test_default_config_wellFormed : OWCConfig.default.wellFormed = true := by decide

-- ==== Decode: the words of R91, bit by bit ====

theorem test_decode_busReset : decode 0b00000001 = .command .busReset := by decide
theorem test_decode_writeBit : decode 0b00000010 = .command .writeBit := by decide
theorem test_decode_readBit : decode 0b00000011 = .command .readBit := by decide
theorem test_decode_writeByte : decode 0b00000100 = .command .writeByte := by decide
theorem test_decode_readByte : decode 0b00000101 = .command .readByte := by decide
theorem test_decode_searchReset : decode 0b00000110 = .command .searchReset := by decide
theorem test_decode_searchFirst : decode 0b00000111 = .command .searchFirst := by decide
theorem test_decode_searchNext : decode 0b00001000 = .command .searchNext := by decide
theorem test_decode_select : decode 0b00001001 = .command .select := by decide
theorem test_decode_crcClear : decode 0b00001010 = .command .crcClear := by decide
theorem test_decode_crcFeed : decode 0b00001011 = .command .crcFeed := by decide
theorem test_decode_crcRom : decode 0b00001100 = .command .crcRom := by decide
theorem test_decode_rejects_zero : decode 0x00 = .illegal := by decide
theorem test_decode_rejects_thirteen : decode 0x0D = .illegal := by decide
theorem test_decode_rejects_high_bit : decode 0x81 = .illegal := by decide
theorem test_decodeTableWord_one_byte : decodeTableWord 8 0x0C = some .crcRom := by decide
theorem test_decodeTableWord_no_longer_form : decodeTableWord 16 0x000C = none := by decide
theorem test_withFetchWord_runs_the_command :
    step (State.reset.withFetchWord 8 0x0A) = exec .crcClear (State.reset.accept .crcClear 0x0A) := by rfl

-- ==== Transfer commands ====

/-- T1. -/
theorem test_busReset_presence : (after .busReset (onRef [addrA])).status = 0x02 := by decide +kernel
/-- T2. -/
theorem test_busReset_empty_bus : (after .busReset { onRef [] with presence := true }).status = 0x00 := by decide +kernel
/-- T6. -/
theorem test_writeBit_sends_bit0_only :
    (after .writeBit { State.reset with data := 0xFE }).slots = [.write false] := by decide +kernel
/-- T7. -/
theorem test_writeBit_one : (after .writeBit { State.reset with data := 0xFF }).slots = [.write true] := by decide +kernel
/-- T8. -/
theorem test_readBit_high : (after .readBit { onScript [true] with data := 0xA5 }).data = 0x01 := by decide +kernel
/-- T9. -/
theorem test_readBit_low : (after .readBit { State.reset with data := 0xA5, bus := .short }).data = 0x00 := by
  decide +kernel
/-- T10: bits 0,0,1,1,0,0,1,1 in that order. -/
theorem test_writeByte_lsb_first :
    (after .writeByte { State.reset with data := 0xCC }).slots.reverse =
      [.write false, .write false, .write true, .write true, .write false, .write false, .write true, .write true] := by
  decide +kernel
/-- T13. -/
theorem test_readByte_lsb_first :
    (after .readByte (onScript [false, false, false, false, true, false, true, false])).data = 0x50 := by decide +kernel
/-- T14. -/
theorem test_readByte_idle_bus : (after .readByte { onRef [] with data := 0x12 }).data = 0xFF := by decide +kernel

-- ==== Search commands ====

/-- S10a: FOUND, SRESULT and ROM unchanged. -/
theorem test_searchReset_keeps_found :
    let t := after .searchReset { onRef [] with ld := 9, lfd := 4, found := true, sresult := .found, rom := addrA }
    (t.ld, t.lfd, t.found, t.sresult, t.rom) = (0, 0, true, .found, addrA) := by decide +kernel
/-- S2a: LD = 20. -/
theorem test_searchFirst_two_devices :
    let t := after .searchFirst (onRef [addrA, addrB])
    (t.rom, t.ld, t.lfd, t.status) = (addrB, 20, 0, 0x06) := by decide +kernel
/-- S8: a fault at position 10 keeps positions 1 to 9. -/
theorem test_searchFirst_fault_at_position_10 :
    let t := after .searchFirst (onScript ([false] ++
      [false, true, false, true, false, true, false, false, true, false, false, true, false, true, false, true, false, true] ++
      [true, true]))
    (t.sresult, t.rom, t.ld, t.lfd, t.status, t.slots.length, t.now) =
      (.busFault, #v[0x10, 0, 0, 0, 0, 0, 0, 0], 0, 0, 0x02, 38, 3550) := by decide +kernel
/-- S2b: from the state S2a left. -/
theorem test_searchNext_takes_the_other_branch :
    let t := after .searchNext { onRef [addrA, addrB] with rom := addrB, ld := 20, presence := true, found := true }
    (t.rom, t.ld, t.status) = (addrA, 0, 0x0E) := by decide +kernel
/-- S1b: EXHAUSTED, no slot, one tick. -/
theorem test_searchNext_exhausted :
    let t := after .searchNext { onRef [addrA] with rom := addrA, ldf := true, presence := true, found := true }
    (t.sresult, t.rom, t.ldf, t.status, t.slots, t.now) = (.exhausted, addrA, false, 0x02, [], 1) := by decide +kernel

-- ==== SELECT ====

/-- SE1: 72 write slots, the bytes 55 28 FF 4A 1D 0B 00 00 78. -/
theorem test_select_sends_match_and_address :
    (after .select { State.reset with matchAddr := addrA }).slots.reverse =
      ([0x55, 0x28, 0xFF, 0x4A, 0x1D, 0x0B, 0x00, 0x00, 0x78] : List Byte).flatMap fun v =>
        [.write (v.getLsbD 0), .write (v.getLsbD 1), .write (v.getLsbD 2), .write (v.getLsbD 3), .write (v.getLsbD 4),
          .write (v.getLsbD 5), .write (v.getLsbD 6), .write (v.getLsbD 7)] := by decide +kernel
/-- SE1: 5040 ticks, no sample. -/
theorem test_select_takes_no_sample :
    let t := after .select { State.reset with matchAddr := addrA }
    (t.now, t.draws) = (5040, 0) := by decide +kernel

-- ==== CRC-8 ====

/-- CR2. -/
theorem test_crcClear : (after .crcClear { State.reset with crc := 0x5E }).crc = 0x00 := by decide +kernel
/-- CR4. -/
theorem test_crcFeed_from_zero : (after .crcFeed { State.reset with data := 0x01 }).crc = 0x5E := by decide +kernel
/-- CR5. -/
theorem test_crcFeed_accumulates : (after .crcFeed { State.reset with crc := 0x5E, data := 0x01 }).crc = 0x9A := by
  decide +kernel
/-- CR8. -/
theorem test_crcRom_valid :
    let t := after .crcRom { State.reset with rom := addrA }
    (t.crc, t.crcOk) = (0x78, true) := by decide +kernel
/-- CR9. -/
theorem test_crcRom_invalid :
    let t := after .crcRom { State.reset with rom := addrB, crcOk := true }
    (t.crc, t.crcOk) = (0x46, false) := by decide +kernel

-- ==== The host port ====

/-- R61's map: 23 offsets of the window hold a register, each its own (log 29). -/
theorem test_register_map_has_23_registers :
    ((List.range 32).filterMap regAt).length = 23 ∧ ((List.range 32).filterMap regAt).Nodup := by decide +kernel
/-- HI1. -/
theorem test_illegal_code_sets_ill : (afterEvent (.write 0x00 0x00) State.reset).status = 0x40 := by decide +kernel
/-- HI4. -/
theorem test_status_write_clears_ovr_only :
    (afterEvent (.write 0x01 0x20) { State.reset with ovr := true, ill := true }).status = 0x40 := by decide +kernel
/-- HI8: BUSY is checked first. -/
theorem test_busy_illegal_code_sets_ovr : (afterEvent (.write 0x00 0xFF) busyState).ill = false := by decide +kernel
/-- HI6. -/
theorem test_busy_data_write_lost :
    let t := afterEvent (.write 0x02 0x55) busyState
    (t.data, t.ovr, t.phase) = (0x00, true, busyState.phase) := by decide +kernel
/-- HI12. -/
theorem test_read_only_write_ignored : (afterEvent (.write 0x04 0x33) State.reset).ld = 0 := by decide +kernel
/-- HI13. -/
theorem test_match3_reads_back :
    (afterEvent (.read 0x13) (afterEvent (.write 0x13 0x1D) State.reset)).reads = [0x1D] := by decide +kernel
/-- R69: a read leaves the bus, and the levels it will give, alone. -/
theorem test_read_leaves_the_bus_alone :
    let t := afterEvent (.read 0x02) State.reset
    (t.bus, t.draws, t.slots) = (.free, 0, []) := by decide +kernel
/-- HI14. -/
theorem test_wide_access_refused :
    (match step { State.reset with host := [.wide 0x02 2] } with | .refused .accessWidth => true | _ => false) = true := by
  decide +kernel
/-- R97: the lines of `ow.rbit`. -/
theorem test_rbit_expansion :
    programEvents { OWCConfig.default with base := 0x40 } (expandPseudo .rbit) =
      [.write 0x40 0x03, .wait, .read 0x41, .read 0x42] := by decide +kernel

-- ==== Ticks and block reset ====

/-- R114: the line in the ticks of BUS_RESET (T_START 2, T_RSTL 3). -/
theorem test_reset_slot_waveform :
    (List.range 7).map (fun k => (ticks k ({ onRef [addrA] with cfg := shortCfg }.accept .busReset 0x01)).owDriveLow) =
      [false, false, true, true, true, false, false] := by decide +kernel
/-- R36: READ_BIT tick by tick commits after T_START + T_SLOT. -/
theorem test_readBit_ticks_commit :
    let s := { onScript [true] with cfg := shortCfg, data := 0xA5 }.accept .readBit 0x03
    ((ticks 6 s).data, (ticks 6 s).busy, (ticks 7 s).data, (ticks 7 s).busy) = (0xA5, true, 0x01, false) := by
  decide +kernel
/-- RS2: a reset in the middle of a slot abandons the command. -/
theorem test_rst_cuts_the_slot :
    let t := afterEvent .rst (ticks 3 ({ onRef [addrA] with cfg := shortCfg, data := 0x77 }.accept .writeByte 0x04))
    (t.slots, t.data, t.busy, t.owDriveLow) = ([.cut (.write true) 1], 0x00, false, false) := by decide +kernel

-- ==== Witnesses: for each statement with hypotheses, states and operands that meet them together ====

theorem witness_StepRunsAcceptedCommand :
    (∃ s r i rest, s.phase = .run r ∧ decode r.curCmd = .command i ∧ r = startRun i s r.curCmd ∧ s.host = .wait :: rest) ∧
    (∃ s r i, s.phase = .run r ∧ decode r.curCmd = .command i ∧ r = startRun i s r.curCmd ∧ s.host = []) :=
  ⟨⟨{ busyState with host := [.wait, .read 2] }, _, .readBit, [.read 2], rfl, rfl, rfl, rfl⟩,
    ⟨busyState, _, .readBit, rfl, rfl, rfl, rfl⟩⟩

theorem witness_LegalCmdWriteStartsAndRuns :
    ∃ (s : State) (i : Instr) (rest : List HostEvent),
      s.busy = false ∧ s.host = .write s.cfg.base (encode i) :: .wait :: rest :=
  ⟨{ State.reset with host := [.write 0 0x0C, .wait] }, .crcRom, [], rfl, rfl⟩

theorem witness_StepLetsTimePass :
    (∃ s : State, s.host = [.tick]) ∧
    (∃ s r, s.phase = .run r ∧ decode r.curCmd = .command .readBit ∧ r ≠ startRun .readBit s r.curCmd ∧ s.host = [.wait]) ∧
    (∃ s r, s.phase = .run r ∧ decode r.curCmd = .command .readBit ∧ r ≠ startRun .readBit s r.curCmd ∧ s.host = []) ∧
    (∃ s : State, s.busy = false ∧ s.host = [.wait]) ∧ ∃ s : State, s.busy = false ∧ s.host = [] :=
  ⟨⟨{ State.reset with host := [.tick] }, rfl⟩,
    ⟨{ tick busyState with host := [.wait] }, _, rfl, by decide +kernel, by decide +kernel, rfl⟩,
    ⟨tick busyState, _, rfl, by decide +kernel, by decide +kernel, rfl⟩,
    ⟨{ State.reset with host := [.wait] }, rfl, rfl⟩, State.reset, rfl, rfl⟩

theorem witness_IllegalCodeSetsIll :
    ∃ s u : State, s.host = [.write s.cfg.base 0x00] ∧ s.busy = false ∧ u.host = [.write u.cfg.base 0x0D] ∧
      u.busy = true ∧ 0x0D ≤ (0x0D : Byte).toNat ∧ 0x0D ≤ (0xFF : Byte).toNat :=
  ⟨{ State.reset with host := [.write 0 0x00] }, { busyState with host := [.write 0 0x0D] }, rfl, rfl, rfl, rfl, by decide,
    by decide⟩

theorem witness_BusyWriteIsIgnoredAndSetsOvr :
    ∀ off ∈ [0x00, 0x02, 0x10, 0x17], ∃ s : State, s.busy = true ∧
      (off = 0x00 ∨ off = 0x02 ∨ (0x10 ≤ off ∧ off < 0x18)) ∧ s.host = [.write (s.cfg.base + off) 0x55] := by
  intro off h
  refine ⟨{ busyState with host := [.write (0 + off) 0x55] }, rfl, ?_, rfl⟩
  simp at h
  omega

theorem witness_StatusWriteClearsOnlyStickyFlags :
    ∃ s u : State, s.host = [.write (s.cfg.base + 0x01) 0x60] ∧ s.busy = false ∧
      u.host = [.write (u.cfg.base + 0x01) 0x60] ∧ u.busy = true :=
  ⟨{ State.reset with host := [.write 1 0x60] }, { busyState with host := [.write 1 0x60] }, rfl, rfl, rfl, rfl⟩

theorem witness_ReservedAndReadOnlyOffsets :
    (∀ off ∈ [0x07, 0x18, 0x1F], ∃ s : State, (off = 0x07 ∨ (0x18 ≤ off ∧ off ≤ 0x1F)) ∧
      s.host = [.read (s.cfg.base + off)]) ∧
    (∀ off ∈ [0x03, 0x0F, 0x18, 0x1F], ∃ s : State, ((0x03 ≤ off ∧ off ≤ 0x0F) ∨ (0x18 ≤ off ∧ off ≤ 0x1F)) ∧
      s.host = [.write (s.cfg.base + off) 0xAA]) := by
  constructor
  · intro off h
    refine ⟨{ State.reset with host := [.read (0 + off)] }, ?_, rfl⟩
    simp at h
    omega
  · intro off h
    refine ⟨{ busyState with host := [.write (0 + off) 0xAA] }, ?_, rfl⟩
    simp at h
    omega

theorem witness_IdleWriteStores :
    (∃ s : State, s.busy = false ∧ s.host = [.write (s.cfg.base + 0x02) 0x55]) ∧
    (∀ k ∈ [(0 : Fin 8), 7], ∃ s : State, s.busy = false ∧ s.host = [.write (s.cfg.base + 0x10 + k.val) 0x1D]) :=
  ⟨⟨{ State.reset with host := [.write 2 0x55] }, rfl, rfl⟩,
    fun k _ => ⟨{ State.reset with host := [.write (0 + 0x10 + k.val) 0x1D] }, rfl, rfl⟩⟩

theorem witness_IdleReadReturnsTheRegister :
    ∀ r : Reg, ∃ (s : State) (off : Nat), s.busy = false ∧
      (match r with
        | .cmd => off = 0x00 | .status => off = 0x01 | .data => off = 0x02 | .crc => off = 0x03 | .ld => off = 0x04
        | .lfd => off = 0x05 | .sresult => off = 0x06 | .rom i => off = 0x08 + i.val | .mtch i => off = 0x10 + i.val) ∧
      s.host = [.read (s.cfg.base + off)] := by
  intro r
  refine ⟨{ State.reset with host := [.read (0 + offsetOf r)] }, offsetOf r, rfl, ?_, rfl⟩
  cases r <;> rfl

theorem witness_BusyReadsHideOnlyResults :
    ∀ off ∈ [0x00, 0x01, 0x02, 0x06, 0x07, 0x08, 0x0F, 0x10, 0x17, 0x18, 0x1F],
      ∃ s u : State, off < 0x20 ∧ s.host = [.read (s.cfg.base + off)] ∧ s.busy = true ∧
        u.host = [.read (u.cfg.base + off)] ∧ u.busy = false := by
  intro off h
  refine ⟨{ busyState with host := [.read (0 + off)] }, { State.reset with host := [.read (0 + off)] }, ?_, rfl, rfl, rfl,
    rfl⟩
  simp at h
  omega

theorem witness_WideAccessIsRefused : (2 : Nat) ≠ 1 ∧ ∃ s : State, s.host = [.wide 2 2] :=
  ⟨by decide, { State.reset with host := [.wide 2 2] }, rfl⟩

theorem witness_AccessOutsideTheWindowStops :
    (∃ (s : State) (addr : Nat), addr < s.cfg.base ∧ s.host = [.read addr]) ∧
    (∃ (s : State) (addr : Nat), s.cfg.base + 32 ≤ addr ∧ s.host = [.write addr 0x01]) :=
  ⟨⟨{ State.reset with cfg := { OWCConfig.default with base := 64 }, host := [.read 63] }, 63, by decide, rfl⟩,
    ⟨{ State.reset with host := [.write 32 0x01] }, 32, by decide, rfl⟩⟩

/-- OVR set by a rejected write, kept by a tick, cleared by STATUS and by block reset. -/
theorem witness_OvrIsSticky :
    (∃ t, step { busyState with host := [.write 0x17 0x55] } = .next t ∧ t.ovr = true) ∧
    (∃ t, step { State.reset with ovr := true, host := [.tick] } = .next t ∧ t.ovr = true) ∧
    (∃ t, step { State.reset with ovr := true, host := [.write 0x01 0x20] } = .next t ∧ t.ovr = false) ∧
    (∃ t, step { State.reset with ovr := true, host := [.rst] } = .next t ∧ t.ovr = false) :=
  ⟨⟨_, rfl, rfl⟩, ⟨_, rfl, rfl⟩, ⟨_, rfl, by decide⟩, ⟨_, rfl, rfl⟩⟩

/-- ILL set by an illegal code, kept by a tick, cleared by STATUS and by block reset. -/
theorem witness_IllIsSticky :
    (∃ t, step { State.reset with host := [.write 0x00 0x0D] } = .next t ∧ t.ill = true) ∧
    (∃ t, step { State.reset with ill := true, host := [.tick] } = .next t ∧ t.ill = true) ∧
    (∃ t, step { State.reset with ill := true, host := [.write 0x01 0x40] } = .next t ∧ t.ill = false) ∧
    (∃ t, step { State.reset with ill := true, host := [.rst] } = .next t ∧ t.ill = false) :=
  ⟨⟨_, rfl, rfl⟩, ⟨_, rfl, rfl⟩, ⟨_, rfl, by decide⟩, ⟨_, rfl, rfl⟩⟩

theorem witness_OnlyCmdWritesStartCommands :
    ∃ s t : State, step s = .next t ∧ s.busy = false ∧ t.busy = true :=
  ⟨{ State.reset with host := [.write 0x00 0x01] }, _, rfl, rfl, rfl⟩

theorem witness_HostAccessNeverDisturbsARunningCommand :
    (∃ s t, s.busy = true ∧ s.host = [.write 0x00 0x01] ∧ step s = .next t) ∧
    (∃ s t, s.busy = true ∧ s.host = [.read 0x08] ∧ step s = .next t) :=
  ⟨⟨{ busyState with host := [.write 0x00 0x01] }, _, rfl, rfl, rfl⟩,
    ⟨{ busyState with host := [.read 0x08] }, _, rfl, rfl, rfl⟩⟩

theorem witness_OnlyTheHostWritesMatch :
    ∃ s t : State, step s = .next t ∧ t.matchAddr ≠ s.matchAddr :=
  ⟨{ State.reset with host := [.write 0x10 0x28] }, _, rfl, by decide⟩

theorem busyState_inv : Inv busyState := by
  refine ⟨by decide, by refine ⟨?_, ?_, ?_, ?_, ?_⟩ <;> simp [busyState, State.accept, State.reset], rfl, ?_⟩
  refine ⟨.readBit, rfl, ⟨by decide, by decide, ?_⟩, ?_, rfl⟩
  · show (0 : Nat) < 70
    decide
  · show Instr.readBit ≠ .searchFirst ∧ Instr.readBit ≠ .searchNext
    decide

theorem witness_WellFormedEventsNeverStop :
    ∃ s : State, Inv s ∧ ∀ e rest, s.host = e :: rest → e.wellFormed s.cfg = true :=
  ⟨busyState, busyState_inv, by intro e rest h; cases h⟩

theorem witness_StepKeepsParameters : ∃ s t : State, step s = .next t := ⟨State.reset, _, rfl⟩

theorem witness_TransfersIgnoreTheSearchState : ∃ s t : State, exec .readByte s = .next t := ⟨State.reset, _, rfl⟩

theorem witness_ExhaustedPassRunsNoSlot : ∃ s : State, s.ldf = true := ⟨{ State.reset with ldf := true }, rfl⟩

theorem witness_EmptyBusPassRunsOneResetSlot :
    (startLdf .searchFirst { onRef [] with ldf := true } = false ∧ (onRef []).bus.pullsLow 0 .reset = false) ∧
    (startLdf .searchNext (onRef []) = false ∧ (onRef []).bus.pullsLow 0 .reset = false) := by decide

theorem witness_SearchAlwaysCommitsAnOutcome :
    (after .searchNext (onRef [addrA])).sresult = .found ∧ (after .searchFirst (onRef [addrZ])).sresult = .zeroFamily ∧
    (after .searchFirst { State.reset with bus := .mute }).sresult = .busFault ∧
    (after .searchFirst (onRef [])).sresult = .busEmpty ∧
    (after .searchNext { onRef [] with ldf := true }).sresult = .exhausted := by decide +kernel

/-- LD and LFD both recorded: two devices that differ at position 4 alone. Then LFD kept by SEARCH_NEXT, whose pass has
no discrepancy that takes 0. Then a first byte of 0x00. -/
theorem witness_CompletedPassFollowsTheRules :
    (∃ s t, exec .searchFirst s = .next t ∧ t.sresult = .found ∧ t.ld = 4 ∧ t.lfd = 4) ∧
    (∃ s t, exec .searchNext s = .next t ∧ t.sresult = .found ∧ t.ld = 0 ∧ s.lfd = 4 ∧ t.lfd = 4) ∧
    ∃ s t, exec .searchFirst s = .next t ∧ t.sresult = .zeroFamily :=
  ⟨⟨onRef [addrA, #v[0x20, 0xFF, 0x4A, 0x1D, 0x0B, 0x00, 0x00, 0x78]], _, rfl, by decide +kernel, by decide +kernel,
      by decide +kernel⟩,
    ⟨{ onRef [addrA, addrB] with rom := addrB, ld := 20, lfd := 4, found := true, sresult := .found }, _, rfl,
      by decide +kernel, by decide +kernel, rfl, by decide +kernel⟩,
    ⟨onRef [addrZ], _, rfl, by decide +kernel⟩⟩

theorem witness_FaultedPassStopsAtOnce :
    ∃ s t, exec .searchNext s = .next t ∧ t.sresult = .busFault :=
  ⟨{ State.reset with bus := .mute }, _, rfl, by decide +kernel⟩

theorem witness_SearchFirstDoesNotReadRom :
    (after .searchFirst (onRef [addrA])).sresult = .found ∧ (after .searchFirst (onRef [addrZ])).sresult = .zeroFamily ∧
    (after .searchFirst (onRef [])).sresult = .busEmpty ∧
    (after .searchFirst { State.reset with bus := .mute }).sresult = .busFault := by decide +kernel

theorem witness_ShortAndMuteBusOutcomes :
    (∃ s : State, s.bus = .short) ∧ ∃ s : State, s.bus = .mute :=
  ⟨⟨{ State.reset with bus := .short }, rfl⟩, ⟨{ State.reset with bus := .mute }, rfl⟩⟩

theorem witness_TwoAddressesAreResolvedAtTheirDifference :
    (onRef [addrA, addrB]).bus = .ref (refBus [addrA, addrB]) ∧
    (refBus [addrA, addrB]).devices = [⟨addrA, []⟩, ⟨addrB, []⟩] ∧
    romBit addrB 20 = false ∧ romBit addrA 20 = true ∧
    (∀ n < 65, 1 ≤ n → n ≠ 20 → romBit addrB n = romBit addrA n) ∧ addrByte addrB 0 ≠ 0x00 ∧ addrByte addrA 0 ≠ 0x00 := by
  decide +kernel

theorem witness_SweepReturnsEveryDeviceInKeyOrder :
    ((refBus [addrA, addrB]).devices.map Device.addr).Perm [addrB, addrA] ∧
    [addrB, addrA].Pairwise (fun x y => addrKey x < addrKey y) ∧ ∀ a ∈ [addrB, addrA], addrByte a 0 ≠ 0x00 :=
  ⟨List.Perm.swap _ _ _, by decide +kernel, by
    intro a h
    simp only [List.mem_cons, List.not_mem_nil, or_false] at h
    rcases h with rfl | rfl <;> decide +kernel⟩

theorem witness_ZeroFamilyDeviceBlocksTheSweep :
    (⟨addrZ, []⟩ : Device) ∈ (refBus [addrA, addrZ]).devices ∧ addrByte addrZ 0 = 0x00 := by decide +kernel

theorem witness_SelectSelectsTheAddressedDevice :
    ∃ s t u : State, s.bus = .ref (refBus [addrA, addrB]) ∧ s.cfg.cmdMatchRom ≠ s.cfg.cmdSearchRom ∧
      exec .busReset s = .next t ∧ exec .select t = .next u ∧ s.matchAddr = addrA :=
  ⟨{ onRef [addrA, addrB] with matchAddr := addrA }, _, _, rfl, by decide, rfl, rfl, rfl⟩

theorem witness_FeedingARangeLeavesItsCrc : ∃ s t : State, exec .crcClear s = .next t := ⟨State.reset, _, rfl⟩

theorem witness_CrcResidueIsZero : ∃ s t : State, exec .crcRom s = .next t ∧ t.crcOk = true :=
  ⟨{ State.reset with rom := addrA }, _, rfl, by decide +kernel⟩

theorem witness_WriteMatrix_and_CommandDurations :
    ∃ s t : State, exec .searchFirst s = .next t ∧ t.sresult = .busFault ∧ t.now = 1660 :=
  ⟨{ State.reset with bus := .mute }, _, rfl, by decide +kernel, by decide +kernel⟩

theorem witness_TicksReachTheCommit :
    ∃ s t : State, s.cfg.Valid ∧ exec .writeByte s = .next t := ⟨State.reset, _, by decide, rfl⟩

theorem witness_SearchTicksReachTheCommit :
    ∃ s t : State, s.cfg.Valid ∧ exec .searchFirst s = .next t := ⟨State.reset, _, by decide, rfl⟩

theorem witness_OnlyBusyShowsBeforeTheCommit :
    ∃ (s t : State) (k : Nat), s.cfg.Valid ∧ exec .crcRom s = .next t ∧ k < t.now - s.now :=
  ⟨State.reset, _, 0, by decide, rfl, by decide⟩

theorem witness_SlotWaveforms :
    shortCfg.Valid ∧ 4 < shortCfg.tRst ∧ 4 < shortCfg.tSlot ∧ 1 < shortCfg.tStart := by decide

theorem witness_SamplesAreTakenWithTheLineReleased :
    OWCConfig.default.Valid ∧ sampleTick OWCConfig.default .reset = some 550 ∧
    sampleTick OWCConfig.default .read = some 15 := by decide

theorem witness_RunningCommandCommitsInBoundedTime : ∃ s : State, Inv s ∧ s.busy = true := ⟨busyState, busyState_inv, rfl⟩

theorem witness_BlockResetOverridesEverything :
    (∃ s : State, s.host = [.rst] ∧ s.busy = false) ∧
    (∃ (s : State) (r : Run), s.host = [.rst] ∧ s.phase = .run r ∧ decode r.curCmd = .command .busReset ∧ r.waitLeft = 2) ∧
    (∃ (s : State) (r : Run), s.host = [.rst] ∧ s.phase = .run r ∧ decode r.curCmd = .command .crcClear ∧ r.waitLeft = 0 ∧
      currentSlot .crcClear s r = none) ∧
    ∀ b : Population, ∃ (s : State) (r : Run), s.host = [.rst] ∧ s.bus = b ∧ s.phase = .run r ∧ decode r.curCmd = .command .readBit ∧
      r.waitLeft = 0 ∧ currentSlot .readBit s r = some .read :=
  ⟨⟨{ State.reset with host := [.rst] }, rfl, rfl⟩,
    ⟨{ { State.reset with cfg := shortCfg }.accept .busReset 0x01 with host := [.rst] }, _, rfl, rfl, rfl, rfl⟩,
    ⟨{ State.reset.accept .crcClear 0x0A with host := [.rst] }, _, rfl, rfl, rfl, rfl, rfl⟩,
    fun b => ⟨{ busyState with host := [.rst], bus := b }, _, rfl, rfl, rfl, rfl, rfl, rfl⟩⟩

theorem witness_StepKeepsTheInvariant : ∃ s t : State, Inv s ∧ step s = .next t := ⟨busyState, _, busyState_inv, rfl⟩

end Sys2Proof.Tests
end

section
/-! SUPPORT. What a tick of a running command can do, whatever its record holds (R33, R36). -/

namespace Sys2Proof.Machine

theorem OnlyBus.matchAddr {s t : State} (h : OnlyBus s t) : t.matchAddr = s.matchAddr := by rw [h]

/-- The record t ticks into its slot, with b as the last sample (R33). -/
def Run.atTick (r : Run) (t : Nat) (b : Bool) : Run := { r with tickCount := t, sample := b }

theorem takeSample_snd (k : SlotKind) (t : Nat) (s : State) (r : Run) :
    ∃ b, (takeSample k t s { r with tickCount := t }).2 = r.atTick t b := by
  unfold takeSample
  split
  · exact ⟨_, rfl⟩
  · exact ⟨r.sample, rfl⟩

/-- A tick of a slot works on the line and may take the sample; then the slot ends as the command's last, or ends with
another to come, or goes on (R113 to R116, R119). -/
theorem slotTick_commits_or_stands (i : Instr) (k : SlotKind) (s : State) (r : Run) :
    ∃ u b, OnlyBus s u ∧
      ((currentSlot i s ((r.atTick (r.tickCount + 1) b).afterSlot i s.rom) = none ∧
          slotTick i k s r = commitRun i u ((r.atTick (r.tickCount + 1) b).afterSlot i s.rom)) ∨
        ((∃ k', currentSlot i s ((r.atTick (r.tickCount + 1) b).afterSlot i s.rom) = some k') ∧
          slotTick i k s r = u.standAt i ((r.atTick (r.tickCount + 1) b).afterSlot i s.rom)) ∨
        (r.tickCount + 1 < slotTicks s.cfg k ∧ slotTick i k s r = u.standAt i (r.atTick (r.tickCount + 1) b))) := by
  have hu := onlyBus_takeSample k (r.tickCount + 1) s { r with tickCount := r.tickCount + 1 }
  obtain ⟨b, hb⟩ := takeSample_snd k (r.tickCount + 1) s r
  have hs := slotTick_cases i k s r
  simp only [hb] at hs
  generalize (takeSample k (r.tickCount + 1) s { r with tickCount := r.tickCount + 1 }).1 = u at hu hs
  rcases hs with ⟨-, hs⟩ | ⟨ht, hs⟩
  · have hend := finishSlot_cases i k u (r.atTick (r.tickCount + 1) b)
    rw [currentSlot_congr i _ hu.cfg hu.data hu.matchAddr, hu.rom, Option.isSome_iff_exists] at hend
    refine ⟨u.endSlot (slotDone k b), b, hu.trans (onlyBus_endSlot u _), ?_⟩
    rcases hend with ⟨hk, hf⟩ | ⟨hk, hf⟩
    · exact .inl ⟨hk, hs.trans hf⟩
    · exact .inr (.inl ⟨hk, hs.trans hf⟩)
  · exact ⟨u, b, hu, .inr (.inr ⟨ht, hs⟩)⟩

/-- A tick of a running command works on the line; then the command commits, or stands further on (R33, R36). -/
theorem runTick_commits_or_stands (i : Instr) (s : State) (r : Run) :
    ∃ u q, OnlyBus s u ∧ (runTick i s r = commitRun i u q ∨ runTick i s r = u.standAt i q) := by
  rcases runTick_cases i s r with ⟨-, h⟩ | ⟨-, -, -, h⟩ | ⟨-, -, -, h⟩ | ⟨k, -, -, h⟩
  · exact ⟨s, _, .refl s, .inr h⟩
  · exact ⟨s, r, .refl s, .inl h⟩
  · exact ⟨s, _, .refl s, .inr h⟩
  · obtain ⟨u, b, hu, ⟨-, hs⟩ | ⟨-, hs⟩ | ⟨-, hs⟩⟩ := slotTick_commits_or_stands i k s r
    · exact ⟨u, _, hu, .inl (h.trans hs)⟩
    · exact ⟨u, _, hu, .inr (h.trans hs)⟩
    · exact ⟨u, _, hu, .inr (h.trans hs)⟩

end Sys2Proof.Machine
end

section
/-! SUPPORT. What every step leaves as it was: the parameters (R7, log 1), and what the commands leave of the host's
side. -/

namespace Sys2Proof.Machine

theorem SameHostSide.trans {s t u : State} (h : SameHostSide s t) (k : SameHostSide t u) : SameHostSide s u := by
  obtain ⟨hc, hh, hr, hd⟩ := h
  obtain ⟨kc, kh, kr, kd⟩ := k
  exact ⟨kc.trans hc, kh.trans hh, kr.trans hr, kd.trans hd⟩

theorem OnlyBus.sameHostSide {s t : State} (h : OnlyBus s t) : SameHostSide s t :=
  ⟨h.cfg, h.host, h.reads, h.readDraws⟩

theorem sameHostSide_clearSearch (s : State) : SameHostSide s s.clearSearch := ⟨rfl, rfl, rfl, rfl⟩

theorem sameHostSide_commitPass (p : Pass) (s : State) : SameHostSide s (commitPass p s) := ⟨rfl, rfl, rfl, rfl⟩

/-- Whichever way a pass ends, it has run slots and committed (R171). -/
theorem sameHostSide_searchPass (s : State) : SameHostSide s (searchPass s) := by
  have hReset := (onlyBus_startDelay s).trans (onlyBus_resetSlot s.startDelay)
  unfold searchPass
  split
  · exact (onlyBus_internalDelay s).sameHostSide
  · dsimp only
    split
    · exact hReset.sameHostSide
    · exact ((hReset.trans (onlyBus_writeBits _ _)).trans (onlyBus_searchPositions _ _ _ _)).sameHostSide

/-- No command changes the parameters, the pending events, or what reads have returned. -/
theorem exec_sameHostSide {i : Instr} {s t : State} (h : exec i s = .next t) : SameHostSide s t := by
  cases i with
  | busReset =>
    cases h
    exact ((onlyBus_startDelay s).trans (onlyBus_resetSlot _)).sameHostSide
  | writeBit =>
    cases h
    exact ((onlyBus_startDelay s).trans (onlyBus_writeSlot (bitOf s.data 0) _)).sameHostSide
  | readBit =>
    cases h
    exact ((onlyBus_startDelay s).trans (onlyBus_readSlot _)).sameHostSide
  | writeByte =>
    cases h
    exact ((onlyBus_startDelay s).trans (onlyBus_writeBits _ _)).sameHostSide
  | readByte =>
    cases h
    exact ((onlyBus_startDelay s).trans (onlyBus_readBitsFrom 8 0x00 _)).sameHostSide
  | searchFirst =>
    cases h
    exact (sameHostSide_clearSearch s).trans (sameHostSide_searchPass _)
  | searchNext =>
    cases h
    exact sameHostSide_searchPass s
  | select =>
    cases h
    exact ((onlyBus_startDelay s).trans (onlyBus_writeBits _ _)).sameHostSide
  | searchReset | crcClear | crcFeed | crcRom =>
    cases h
    exact (onlyBus_internalDelay s).sameHostSide

theorem commitRun_sameHostSide (i : Instr) (s : State) (r : Run) : SameHostSide s (commitRun i s r) := by
  cases i with
  | searchFirst | searchNext =>
    unfold commitRun
    cases r.pass with
    | none => exact ⟨rfl, rfl, rfl, rfl⟩
    | some p => exact sameHostSide_commitPass p s
  | _ => exact ⟨rfl, rfl, rfl, rfl⟩

/-- A tick touches nothing of the host's side (R9). -/
theorem tick_sameHostSide (s : State) : SameHostSide s (tick s) := by
  cases hp : s.phase with
  | idle => exact tick_of_idle hp ▸ (onlyBus_elapse s 1).sameHostSide
  | run r =>
    cases hi : decode r.curCmd with
    | illegal => simpa [tick, hp, hi] using (onlyBus_elapse s 1).sameHostSide
    | command i =>
      rw [tick_of_run hp hi]
      obtain ⟨u, q, hu, h | h⟩ := runTick_commits_or_stands i (s.elapse 1) r
      · rw [h]
        exact ((onlyBus_elapse s 1).trans hu).sameHostSide.trans (commitRun_sameHostSide i u q)
      · rw [h]
        exact ((onlyBus_elapse s 1).trans hu).sameHostSide

theorem tick_cfg (s : State) : (tick s).cfg = s.cfg := (tick_sameHostSide s).1

theorem sequencerTurn_cfg {s t : State} {rest : List HostEvent} (h : sequencerTurn s rest = .next t) :
    t.cfg = s.cfg := by
  rcases sequencerTurn_cases h with ⟨-, rfl⟩ | ⟨r, i, -, -, ⟨-, he⟩ | ⟨-, rfl⟩⟩
  · rfl
  · exact (exec_sameHostSide he).1
  · exact tick_cfg s

theorem storeIfIdle_cfg {s u : State} (h : u.cfg = s.cfg) : (s.storeIfIdle u).cfg = s.cfg := by
  unfold State.storeIfIdle
  split
  · rfl
  · exact h

theorem writeCmd_cfg (s : State) (v : Byte) : (s.writeCmd v).cfg = s.cfg := by
  cases hb : s.busy with
  | true => rw [writeCmd_of_busy hb]
  | false =>
    cases hv : decode v with
    | illegal => rw [writeCmd_of_illegal hb hv]
    | command i => rw [writeCmd_of_command hb hv]; rfl

theorem hostWrite_cfg (s : State) (off : Nat) (v : Byte) : (hostWrite s off v).cfg = s.cfg := by
  rcases hostWrite_cases s off v with ⟨-, h⟩ | ⟨-, h⟩ | ⟨-, h⟩ | ⟨i, -, h⟩ | ⟨-, h⟩ <;> rw [h]
  · exact writeCmd_cfg s v
  · exact State.clearStickyFlags_cfg s v
  · exact storeIfIdle_cfg rfl
  · exact storeIfIdle_cfg rfl

theorem assertReset_cfg (s : State) : (assertReset s).cfg = s.cfg := by
  rcases assertReset_cases s with ⟨-, h⟩ | ⟨d, -, h⟩ <;> simp [h]

end Sys2Proof.Machine

open Sys2Proof.Machine in
/-- Settles O22, by the kinds of step: an event, a command as one change of state, or a tick. -/
theorem stepKeepsParameters : Obligations.StepKeepsParameters := by
  intro s t h
  rcases step_cases h with ⟨-, h⟩ | ⟨rest, -, h⟩ | ⟨rest, -, rfl⟩ | ⟨rest, -, rfl⟩ | ⟨off, v, rest, -, -, rfl⟩ |
    ⟨off, rest, -, -, rfl⟩
  · exact sequencerTurn_cfg h
  · exact sequencerTurn_cfg h
  · exact tick_cfg _
  · exact assertReset_cfg _
  · exact hostWrite_cfg _ off v
  · rfl
end

section
/-! SUPPORT. The step and time (R16), and the state after reset (R45). -/

namespace Sys2Proof.Machine

/-- A wait is the sequencer's turn (R16). -/
theorem step_of_wait {s : State} {rest : List HostEvent} (h : s.host = .wait :: rest) :
    step s = sequencerTurn s rest := by
  have hs : ({ s with host := .wait :: rest } : State) = s := by rw [← h]
  rw [step_of_cons h]
  exact congrArg (sequencerTurn · rest) hs

theorem sequencerTurn_of_idle {s : State} (h : s.busy = false) (rest : List HostEvent) :
    sequencerTurn s rest = .next { s with host := rest } := by
  cases hp : s.phase with
  | idle => simp [sequencerTurn, hp]
  | run r => simp [State.busy, hp] at h

/-- A command that ticks have begun goes on by a tick, whatever events are left (R36). -/
theorem sequencerTurn_of_begun {s : State} {r : Run} {i : Instr} (hp : s.phase = .run r)
    (hi : decode r.curCmd = .command i) (hr : r ≠ startRun i s r.curCmd) (rest : List HostEvent) :
    sequencerTurn s rest = .next (tick s) := by
  simp [sequencerTurn, notBegun, hp, hi, hr]

/-- The invariants of the search state hold right after reset (R42, R45). -/
theorem searchStateInv_reset : SearchStateInv State.reset :=
  ⟨by decide, by decide, fun _ => rfl, fun h => absurd rfl h, fun h => by simp [State.reset] at h⟩

end Sys2Proof.Machine

open Sys2Proof.Machine in
/-- Settles O5, by whose turn the step is: the event's, or the sequencer's, idle or with a command that ticks have
begun. -/
theorem stepLetsTimePass : Obligations.StepLetsTimePass := by
  intro s rest
  refine ⟨fun h => step_of_cons h, ?_, ?_, ?_⟩
  · rintro r i hp hi hr (hw | hn)
    · rw [step_of_wait hw, sequencerTurn_of_begun hp hi hr]
    · rw [step_of_nil hn, sequencerTurn_of_begun hp hi hr]
  · intro hb hw
    rw [step_of_wait hw, sequencerTurn_of_idle hb]
  · intro hb hn
    rw [step_of_nil hn, sequencerTurn_of_idle hb, ← hn]

open Sys2Proof.Machine in
/-- Settles O59: the reset state is IDLE, its search state is empty, and its parameters are the defaults (R45, log 1). -/
theorem resetMeetsTheInvariant : Obligations.ResetMeetsTheInvariant :=
  ⟨by decide, searchStateInv_reset, rfl, rfl⟩
end

section
/-! SUPPORT. How far a running command is from its commit: its record keeps the invariant from tick to tick (R33, R34),
and the ticks still to pass become fewer (R272). -/

namespace Sys2Proof.Machine

-- The slot a command stands in

/-- The slot depends on the record by the count of slots and the pass alone. -/
theorem currentSlot_congr_run (i : Instr) (s : State) {r q : Run} (hs : q.step = r.step) (hp : q.pass = r.pass) :
    currentSlot i s q = currentSlot i s r := by
  cases i <;> simp [currentSlot, hs, hp]

/-- A pass stands in a slot only while its outcome is open; the reset slot comes first, and only there (R166, R171). -/
theorem Pass.slot_eq_some {p : Pass} {c : OWCConfig} {n : Nat} {k : SlotKind} (h : p.slot c n = some k) :
    p.code = .none ∧ (k = .reset ↔ n = 0) := by
  unfold Pass.slot at h
  split at h
  · cases h
  next hc =>
    refine ⟨not_not.mp hc, ?_⟩
    split at h
    next h0 => cases h; simp [h0]
    next h0 =>
      split at h
      · obtain ⟨b, -, rfl⟩ := Option.map_eq_some_iff.mp h
        simp [h0]
      · split at h <;> cases h <;> simp [h0]

/-- The slots a command can run at the most: one, those of a byte, of SELECT's nine bytes (R200), or of a complete pass:
the reset slot, a byte, and three for each of 64 positions (R166, R160). -/
def slotLimit : Instr → Nat
  | .busReset => 1
  | .writeBit => 1
  | .readBit => 1
  | .writeByte => 8
  | .readByte => 8
  | .searchReset => 0
  | .searchFirst => 201
  | .searchNext => 201
  | .select => 72
  | .crcClear => 0
  | .crcFeed => 0
  | .crcRom => 0

/-- A pass whose outcome is open has slots left (R171). -/
theorem Pass.step_lt_of_open {p : Pass} {n : Nat} (h : p.Inv n) (hc : p.code = .none) : n < 201 := by
  obtain ⟨-, -, h⟩ := h
  simp only [hc] at h
  omega

theorem exists_pass_of_search {i : Instr} {r : Run} (h : PassInv i r) (hi : i = .searchFirst ∨ i = .searchNext) :
    ∃ p, r.pass = some p ∧ p.Inv r.step := by
  unfold PassInv at h
  cases hp : r.pass with
  | none =>
    simp only [hp] at h
    exact absurd hi (not_or.mpr h)
  | some p =>
    simp only [hp] at h
    exact ⟨p, rfl, h.2⟩

/-- A slot a command stands in is within its limit, and only the first can be the reset slot. -/
theorem currentSlot_eq_some {i : Instr} {s : State} {r : Run} {k : SlotKind} (hpass : PassInv i r)
    (h : currentSlot i s r = some k) :
    r.step < slotLimit i ∧ (k = .reset → r.step = 0) ∧ (k ≠ .reset → slotLimit i ≤ r.step + 200) := by
  cases i with
  | searchFirst | searchNext =>
    obtain ⟨p, hp, hinv⟩ := exists_pass_of_search hpass (by simp)
    obtain ⟨hcode, hreset⟩ := Pass.slot_eq_some (p := p) (by simpa [currentSlot, hp] using h)
    refine ⟨Pass.step_lt_of_open hinv hcode, hreset.mp, fun hk => ?_⟩
    simp only [slotLimit]
    have hstep : r.step ≠ 0 := mt hreset.mpr hk
    omega
  | busReset | writeBit | readBit | readByte =>
    obtain ⟨hlt, ⟨⟩⟩ := Option.ite_none_right_eq_some.mp h
    simp [slotLimit, hlt]
  | writeByte | select =>
    obtain ⟨b, hb, rfl⟩ := Option.map_eq_some_iff.mp h
    obtain ⟨hlt, -⟩ := List.getElem?_eq_some_iff.mp hb
    simp only [length_bitsOf, length_selectBits] at hlt
    simp [slotLimit, hlt]
  | searchReset | crcClear | crcFeed | crcRom => cases h

/-- While its outcome is open, a pass stands as the position count says (R34, R160). -/
theorem Pass.inv_of_open {p : Pass} {n : Nat} (hc : p.code = .none) :
    p.Inv n ↔ p.lfd.toNat ≤ 8 ∧ (p.lastZero ≠ 0 → romBit p.rom p.lastZero = false) ∧
      1 ≤ p.n ∧ p.n ≤ 64 ∧ (n < 9 → p.n = 1 ∧ p.lastZero = 0) ∧
      (9 ≤ n → n = 9 + 3 * (p.n - 1) + (n - 9) % 3) ∧
      (if 9 ≤ n ∧ (n - 9) % 3 = 2 then p.lastZero ≤ p.n else p.lastZero < p.n) := by
  simp only [Pass.Inv, hc]

/-- A direction taken at position n leaves ROMbit of the last zero 0, whether that is n (R164) or an earlier one. -/
theorem Pass.takeDirection_keeps {p : Pass} (d : Bool) (hlfd : p.lfd.toNat ≤ 8)
    (hrom : p.lastZero ≠ 0 → romBit p.rom p.lastZero = false) (h1 : 1 ≤ p.n) (h64 : p.n ≤ 64)
    (hlt : p.lastZero < p.n) :
    (p.takeDirection d).lfd.toNat ≤ 8 ∧
    ((p.takeDirection d).lastZero ≠ 0 → romBit (p.takeDirection d).rom (p.takeDirection d).lastZero = false) ∧
    (p.takeDirection d).lastZero ≤ p.n := by
  rw [takeDirection_rom]
  by_cases hz : (p.idBit == p.cmpBit && !d) = true
  · have hd : d = false := by simpa using (Bool.and_eq_true_iff.mp hz).2
    obtain ⟨hlast, hfam⟩ : (p.takeDirection d).lastZero = p.n ∧
        (p.takeDirection d).lfd = if p.n ≤ 8 then BitVec.ofNat 8 p.n else p.lfd := by
      simp [Pass.takeDirection, Pass.recordZero, hz]
    rw [hlast, hfam]
    refine ⟨?_, fun _ => hd ▸ romBit_setRomBit_same p.rom d h1 h64, le_rfl⟩
    split
    · rw [BitVec.toNat_ofNat]; omega
    · exact hlfd
  · obtain ⟨hlast, hfam⟩ : (p.takeDirection d).lastZero = p.lastZero ∧ (p.takeDirection d).lfd = p.lfd := by
      simp [Pass.takeDirection, Pass.recordZero, hz]
    rw [hlast, hfam]
    refine ⟨hlfd, fun h0 => ?_, hlt.le⟩
    rw [romBit_setRomBit_of_ne p.rom d h1 h64 (by omega) (by omega) (by omega)]
    exact hrom h0

/-- A completed position: the next one, or a pass that found a device (R165, R168). -/
theorem Pass.inv_advance {p : Pass} {n : Nat} (h : p.Inv n) (hc : p.code = .none) (h9 : 9 ≤ n)
    (hm : (n - 9) % 3 = 2) : p.advance.Inv (n + 1) := by
  obtain ⟨hlfd, hrom, h1, h64, -, hpos, hlast⟩ := (Pass.inv_of_open hc).mp h
  have hn := hpos h9
  rw [if_pos ⟨h9, hm⟩] at hlast
  by_cases hend : p.n + 1 = 65
  · have : p.advance = { p with n := 65, code := .found } := by simp [Pass.advance, hend]
    rw [this]
    exact ⟨hlfd, hrom, rfl, hlast.trans h64⟩
  · have : p.advance = { p with n := p.n + 1, code := .none } := by simp [Pass.advance, hend]
    rw [this, Pass.inv_of_open rfl, if_neg (by omega)]
    exact ⟨hlfd, hrom, Nat.succ_pos _, by dsimp only; omega, by omega, fun _ => by dsimp only; omega,
      Nat.lt_succ_of_le hlast⟩

/-- Both reads of a position: a bus fault, or a direction (R162 to R164). -/
theorem Pass.inv_classify {p : Pass} {n : Nat} (h : p.Inv n) (hc : p.code = .none) (h9 : 9 ≤ n) (hm : (n - 9) % 3 = 1)
    (old : Address) : (p.classify old).Inv (n + 1) := by
  obtain ⟨hlfd, hrom, h1, h64, -, hpos, hlast⟩ := (Pass.inv_of_open hc).mp h
  have hn := hpos h9
  rw [if_neg (by omega)] at hlast
  cases hf : p.idBit && p.cmpBit with
  | true =>
    obtain ⟨hi, hb⟩ := Bool.and_eq_true_iff.mp hf
    rw [classify_of_fault old hi hb]
    exact ⟨hlfd, hrom, trivial⟩
  | false =>
    obtain ⟨klfd, krom, klast⟩ := Pass.takeDirection_keeps (p.direction old) hlfd hrom h1 h64 hlast
    rw [classify_of_no_fault old hf, Pass.inv_of_open ((takeDirection_code p _).trans hc), takeDirection_n,
      if_pos (by omega)]
    exact ⟨klfd, krom, h1, h64, by omega, by omega, klast⟩

/-- The reset slot: BUS_EMPTY, or the pass goes on at position 1 (R166). -/
theorem Pass.inv_afterReset {p : Pass} (h : p.Inv 0) (hc : p.code = .none) (b : Bool) : (p.afterReset b).Inv 1 := by
  obtain ⟨hlfd, hrom, h1, h64, hopen, -, -⟩ := (Pass.inv_of_open hc).mp h
  obtain ⟨hn, hz⟩ := hopen (by decide)
  cases b with
  | true => exact ⟨hlfd, hrom, trivial⟩
  | false =>
    rw [Pass.inv_of_open rfl, if_neg (by decide)]
    exact ⟨hlfd, hrom, h1, h64, fun _ => ⟨hn, hz⟩, by omega, hz.trans_lt h1⟩

/-- A slot of the search byte leaves the pass where it was (R166). -/
theorem Pass.inv_searchByte {p : Pass} {n : Nat} (h : p.Inv n) (hc : p.code = .none) (h9 : n < 9) :
    p.Inv (n + 1) := by
  obtain ⟨hlfd, hrom, h1, h64, hopen, -, -⟩ := (Pass.inv_of_open hc).mp h
  obtain ⟨hn, hz⟩ := hopen h9
  rw [Pass.inv_of_open hc, if_neg (by omega)]
  exact ⟨hlfd, hrom, h1, h64, fun _ => ⟨hn, hz⟩, by omega, hz.trans_lt h1⟩

/-- The first read of a position (R160). -/
theorem Pass.inv_idBit {p : Pass} {n : Nat} (h : p.Inv n) (hc : p.code = .none) (h9 : 9 ≤ n) (hm : (n - 9) % 3 = 0)
    (b : Bool) : Pass.Inv { p with idBit := b } (n + 1) := by
  obtain ⟨hlfd, hrom, h1, h64, -, hpos, hlast⟩ := (Pass.inv_of_open hc).mp h
  have hn := hpos h9
  rw [if_neg (by omega)] at hlast
  rw [Pass.inv_of_open (p := { p with idBit := b }) hc, if_neg (by omega)]
  exact ⟨hlfd, hrom, h1, h64, by omega, fun _ => show n + 1 = 9 + 3 * (p.n - 1) + _ by omega, hlast⟩

/-- The end of a slot keeps the invariant of a pass whose outcome was open (R171). -/
theorem Pass.inv_afterSlot {p : Pass} {n : Nat} (h : p.Inv n) (hc : p.code = .none) (old : Address) (b : Bool) :
    (p.afterSlot old n b).Inv (n + 1) := by
  unfold Pass.afterSlot
  split
  next h0 =>
    subst h0
    exact Pass.inv_afterReset h hc b
  next =>
    split
    next h9 => exact Pass.inv_searchByte h hc h9
    next h9 =>
      split
      next hm => exact Pass.inv_idBit h hc (by omega) hm b
      next =>
        split
        next hm => exact Pass.inv_classify (p := { p with cmpBit := b }) h hc (by omega) hm old
        next => exact Pass.inv_advance h hc (by omega) (by omega)

-- A tick of a running command

/-- The end of a slot keeps the invariant of the pass (R34). -/
theorem passInv_afterSlot {i : Instr} {s : State} {r : Run} {k : SlotKind} (h : PassInv i r)
    (hk : currentSlot i s r = some k) (old : Address) : PassInv i (r.afterSlot i old) := by
  unfold PassInv at *
  cases hp : r.pass with
  | none => simpa [Run.afterSlot, hp] using h
  | some p =>
    simp only [hp] at h
    obtain ⟨hi, hinv⟩ := h
    have hcode : p.code = .none := by
      rcases hi with rfl | rfl <;>
        exact (Pass.slot_eq_some (c := s.cfg) (n := r.step) (by simpa [currentSlot, hp] using hk)).1
    simpa [Run.afterSlot, hp] using ⟨hi, Pass.inv_afterSlot hinv hcode old r.sample⟩

/-- The same where the tick that ends the slot has moved the position and may have taken the sample. -/
theorem passInv_sampledAfterSlot {i : Instr} {s : State} {r : Run} {k : SlotKind} (h : PassInv i r)
    (hk : currentSlot i s r = some k) (t : Nat) (b : Bool) (old : Address) :
    PassInv i ((r.atTick t b).afterSlot i old) :=
  passInv_afterSlot (r := r.atTick t b) h ((currentSlot_congr_run (r := r) i s rfl rfl).trans hk) old

theorem slotTicks_of_ne_reset (c : OWCConfig) {k : SlotKind} (h : k ≠ .reset) : slotTicks c k = c.tSlot := by
  cases k with
  | reset => exact absurd rfl h
  | write b => rfl
  | read => rfl

theorem slotTicks_pos {c : OWCConfig} (hv : c.Valid) (k : SlotKind) : 0 < slotTicks c k := by
  obtain ⟨⟨-, -, hslot⟩, -, ⟨hrstl, -⟩, -⟩ := hv
  cases k with
  | reset => simp only [slotTicks, OWCConfig.tRst]; omega
  | write b => exact Nat.zero_lt_of_lt hslot
  | read => exact Nat.zero_lt_of_lt hslot

theorem positionInv_of_slot {i : Instr} {s : State} {r : Run} {k : SlotKind} (h : currentSlot i s r = some k) :
    PositionInv i s r ↔ r.waitLeft ≤ s.cfg.tStart ∧ (r.waitLeft ≠ 0 → r.step = 0 ∧ r.tickCount = 0) ∧
      r.tickCount < slotTicks s.cfg k := by
  simp [PositionInv, h]

theorem positionInv_of_no_slot {i : Instr} {s : State} {r : Run} (h : currentSlot i s r = none) :
    PositionInv i s r ↔ r.waitLeft = 0 ∧ r.step = 0 ∧ r.tickCount < s.cfg.tInt := by
  simp only [PositionInv, h]
  omega

theorem positionInv_congr {s t : State} (i : Instr) (r : Run) (hc : t.cfg = s.cfg) (hd : t.data = s.data)
    (hm : t.matchAddr = s.matchAddr) : PositionInv i t r ↔ PositionInv i s r := by
  simp only [PositionInv, currentSlot_congr i r hc hd hm, hc]

/-- The ticks a running command still needs at the most: the rest of `T_START`, of its slot, and `T_SLOT` for each slot
after it, or the rest of `T_INT` (R272). -/
def ticksLeft (i : Instr) (s : State) (r : Run) : Nat :=
  r.waitLeft + match currentSlot i s r with
    | none => s.cfg.tInt - r.tickCount
    | some k => slotTicks s.cfg k - r.tickCount + (slotLimit i - (r.step + 1)) * s.cfg.tSlot

theorem ticksLeft_of_slot {i : Instr} {s : State} {r : Run} {k : SlotKind} (h : currentSlot i s r = some k) :
    ticksLeft i s r = r.waitLeft +
      (slotTicks s.cfg k - r.tickCount + (slotLimit i - (r.step + 1)) * s.cfg.tSlot) := by
  simp only [ticksLeft, h]

theorem ticksLeft_of_no_slot {i : Instr} {s : State} {r : Run} (h : currentSlot i s r = none) :
    ticksLeft i s r = r.waitLeft + (s.cfg.tInt - r.tickCount) := by
  simp only [ticksLeft, h]

theorem ticksLeft_congr {s t : State} (i : Instr) (r : Run) (hc : t.cfg = s.cfg) (hd : t.data = s.data)
    (hm : t.matchAddr = s.matchAddr) : ticksLeft i t r = ticksLeft i s r := by
  simp only [ticksLeft, currentSlot_congr i r hc hd hm, hc]

/-- The command stands further on: nearer to its commit, with its record as the invariant says. -/
def StandsNearer (i : Instr) (s : State) (r q : Run) : Prop :=
  q.curCmd = r.curCmd ∧ PositionInv i s q ∧ PassInv i q ∧ ticksLeft i s q < ticksLeft i s r

/-- A tick of `T_START` (R119). -/
theorem standsNearer_waiting {i : Instr} {s : State} {r : Run} (hpos : PositionInv i s r) (hpass : PassInv i r)
    (hw : r.waitLeft ≠ 0) : StandsNearer i s r { r with waitLeft := r.waitLeft - 1 } := by
  have hc := currentSlot_congr_run (r := r) (q := { r with waitLeft := r.waitLeft - 1 }) i s rfl rfl
  cases hk : currentSlot i s r with
  | none => exact absurd ((positionInv_of_no_slot hk).mp hpos).1 hw
  | some k =>
    rw [hk] at hc
    obtain ⟨hle, h0, hlt⟩ := (positionInv_of_slot hk).mp hpos
    refine ⟨rfl, (positionInv_of_slot hc).mpr ⟨by dsimp only; omega, fun _ => h0 hw, hlt⟩, hpass, ?_⟩
    rw [ticksLeft_of_slot hc, ticksLeft_of_slot hk]
    dsimp only
    omega

/-- A tick of `T_INT` (R36). -/
theorem standsNearer_internal {i : Instr} {s : State} {r : Run} (hpos : PositionInv i s r) (hpass : PassInv i r)
    (hk : currentSlot i s r = none) (ht : r.tickCount + 1 < s.cfg.tInt) :
    StandsNearer i s r { r with tickCount := r.tickCount + 1 } := by
  have hc := (currentSlot_congr_run (r := r) (q := { r with tickCount := r.tickCount + 1 }) i s rfl rfl).trans hk
  obtain ⟨hw, h0, -⟩ := (positionInv_of_no_slot hk).mp hpos
  refine ⟨rfl, (positionInv_of_no_slot hc).mpr ⟨hw, h0, ht⟩, hpass, ?_⟩
  rw [ticksLeft_of_no_slot hc, ticksLeft_of_no_slot hk]
  dsimp only
  omega

/-- A tick inside a slot, which may have taken the sample (R113). -/
theorem standsNearer_inSlot {i : Instr} {s : State} {r : Run} {k : SlotKind} (hpos : PositionInv i s r)
    (hpass : PassInv i r) (hk : currentSlot i s r = some k) (hw : r.waitLeft = 0)
    (ht : r.tickCount + 1 < slotTicks s.cfg k) (b : Bool) :
    StandsNearer i s r (r.atTick (r.tickCount + 1) b) := by
  have hc := (currentSlot_congr_run (r := r) (q := r.atTick (r.tickCount + 1) b) i s rfl rfl).trans hk
  obtain ⟨hle, -, -⟩ := (positionInv_of_slot hk).mp hpos
  refine ⟨rfl, (positionInv_of_slot hc).mpr ⟨hle, absurd hw, ht⟩, hpass, ?_⟩
  rw [ticksLeft_of_slot hc, ticksLeft_of_slot hk]
  dsimp only [Run.atTick]
  omega

/-- The tick that ends a slot with another to come: that one is no reset slot, and is counted in the limit (R119). -/
theorem standsNearer_nextSlot {i : Instr} {s : State} {r : Run} {k k' : SlotKind} {t : Nat} {b : Bool} {old : Address}
    (hv : s.cfg.Valid) (hpos : PositionInv i s r) (hpass : PassInv i r) (hk : currentSlot i s r = some k)
    (hw : r.waitLeft = 0)
    (hk' : currentSlot i s ((r.atTick t b).afterSlot i old) = some k') :
    StandsNearer i s r ((r.atTick t b).afterSlot i old) := by
  have hq := passInv_sampledAfterSlot hpass hk t b old
  obtain ⟨-, -, hlt⟩ := (positionInv_of_slot hk).mp hpos
  obtain ⟨hlimit, hreset, -⟩ := currentSlot_eq_some hq hk'
  have hne : k' ≠ .reset := fun h => Nat.succ_ne_zero r.step (hreset h)
  have hone : slotLimit i - (r.step + 1) = slotLimit i - (r.step + 1 + 1) + 1 := by
    have : r.step + 1 < slotLimit i := hlimit
    omega
  refine ⟨rfl, (positionInv_of_slot hk').mpr ⟨?_, absurd hw, slotTicks_pos hv k'⟩, hq, ?_⟩
  · exact hw.trans_le (Nat.zero_le _)
  · rw [ticksLeft_of_slot hk', ticksLeft_of_slot hk, slotTicks_of_ne_reset _ hne, hone, Nat.succ_mul]
    dsimp only [Run.afterSlot, Run.atTick]
    omega

/-- What a tick does to a running command whose record meets the invariant: it commits with no slot left, or stands
nearer to its commit (R33, R36). -/
theorem runTick_commits_or_standsNearer {i : Instr} {s : State} {r : Run} (hv : s.cfg.Valid)
    (hpos : PositionInv i s r) (hpass : PassInv i r) :
    ∃ u q, OnlyBus s u ∧
      ((currentSlot i s q = none ∧ PassInv i q ∧ runTick i s r = commitRun i u q) ∨
        (StandsNearer i s r q ∧ runTick i s r = u.standAt i q)) := by
  rcases runTick_cases i s r with ⟨hw, h⟩ | ⟨-, hk, -, h⟩ | ⟨-, hk, ht, h⟩ | ⟨k, hw, hk, h⟩
  · exact ⟨s, _, .refl s, .inr ⟨standsNearer_waiting hpos hpass hw, h⟩⟩
  · exact ⟨s, r, .refl s, .inl ⟨hk, hpass, h⟩⟩
  · exact ⟨s, _, .refl s, .inr ⟨standsNearer_internal hpos hpass hk ht, h⟩⟩
  · obtain ⟨u, b, hu, hs⟩ := slotTick_commits_or_stands i k s r
    rcases hs with ⟨hend, hs⟩ | ⟨⟨k', hnext⟩, hs⟩ | ⟨ht, hs⟩
    · exact ⟨u, _, hu, .inl ⟨hend, passInv_sampledAfterSlot hpass hk _ b s.rom, h.trans hs⟩⟩
    · exact ⟨u, _, hu, .inr ⟨standsNearer_nextSlot hv hpos hpass hk hw hnext, h.trans hs⟩⟩
    · exact ⟨u, _, hu, .inr ⟨standsNearer_inSlot hpos hpass hk hw ht b, h.trans hs⟩⟩

-- From tick to tick until the commit

/-- A command runs, with its record as the invariant says (R33, R34). -/
def Running (i : Instr) (s : State) (r : Run) : Prop :=
  s.cfg.Valid ∧ s.phase = .run r ∧ decode r.curCmd = .command i ∧ PositionInv i s r ∧ PassInv i r

theorem running_of_inv {s : State} (h : Inv s) (hb : s.busy = true) : ∃ i r, Running i s r := by
  obtain ⟨hv, -, -, hphase⟩ := h
  obtain ⟨r, hr⟩ := State.busy_eq_true_iff.mp hb
  simp only [hr] at hphase
  obtain ⟨i, hi, hpos, hpass, -⟩ := hphase
  exact ⟨i, r, hv, hr, hi, hpos, hpass⟩

theorem commitRun_busy (i : Instr) (s : State) (r : Run) : (commitRun i s r).busy = false := by
  cases i with
  | searchFirst | searchNext =>
    unfold commitRun
    cases r.pass <;> rfl
  | _ => rfl

/-- A tick commits a running command, or the command runs on with fewer ticks left. -/
theorem tick_of_running {i : Instr} {s : State} {r : Run} (h : Running i s r) :
    (tick s).busy = false ∨ ∃ q, Running i (tick s) q ∧ ticksLeft i (tick s) q < ticksLeft i s r := by
  obtain ⟨hv, hr, hi, hpos, hpass⟩ := h
  rw [tick_of_run hr hi]
  have hpos' : PositionInv i (s.elapse 1) r := (positionInv_congr i r rfl rfl rfl).mpr hpos
  obtain ⟨u, q, hu, ⟨-, -, hc⟩ | ⟨⟨hcmd, hq, hqpass, hless⟩, hc⟩⟩ :=
    runTick_commits_or_standsNearer (s := s.elapse 1) hv hpos' hpass
  · exact .inl (hc ▸ commitRun_busy i u q)
  · rw [hc]
    refine .inr ⟨q, ⟨?_, rfl, hcmd ▸ hi, ?_, hqpass⟩, ?_⟩
    · exact hu.cfg ▸ hv
    · exact (positionInv_congr i q hu.cfg hu.data hu.matchAddr).mpr hq
    · calc ticksLeft i (u.standAt i q) q
        _ = ticksLeft i (s.elapse 1) q := ticksLeft_congr i q hu.cfg hu.data hu.matchAddr
        _ < ticksLeft i (s.elapse 1) r := hless
        _ = ticksLeft i s r := ticksLeft_congr i r rfl rfl rfl

theorem ticksLeft_pos {i : Instr} {s : State} {r : Run} (h : PositionInv i s r) : 0 < ticksLeft i s r := by
  cases hk : currentSlot i s r with
  | none =>
    obtain ⟨-, -, hlt⟩ := (positionInv_of_no_slot hk).mp h
    rw [ticksLeft_of_no_slot hk]
    omega
  | some k =>
    obtain ⟨-, -, hlt⟩ := (positionInv_of_slot hk).mp h
    rw [ticksLeft_of_slot hk]
    omega

theorem slotLimit_le (i : Instr) : slotLimit i ≤ 201 := by cases i <;> decide

/-- No command needs more than the longest durations of R272. -/
theorem ticksLeft_le {i : Instr} {s : State} {r : Run} (h : Running i s r) :
    ticksLeft i s r ≤ max s.cfg.tInt (s.cfg.tStart + s.cfg.tRst + 200 * s.cfg.tSlot) := by
  obtain ⟨-, -, -, hpos, hpass⟩ := h
  cases hk : currentSlot i s r with
  | none =>
    obtain ⟨hw, -, -⟩ := (positionInv_of_no_slot hk).mp hpos
    rw [ticksLeft_of_no_slot hk]
    omega
  | some k =>
    obtain ⟨hw, -, -⟩ := (positionInv_of_slot hk).mp hpos
    obtain ⟨hlt, -, hlater⟩ := currentSlot_eq_some hpass hk
    rw [ticksLeft_of_slot hk]
    by_cases hreset : k = .reset
    · have := slotLimit_le i
      have : (slotLimit i - (r.step + 1)) * s.cfg.tSlot ≤ 200 * s.cfg.tSlot := Nat.mul_le_mul_right _ (by omega)
      have : slotTicks s.cfg k = s.cfg.tRst := hreset ▸ rfl
      omega
    · have := hlater hreset
      have : (slotLimit i - (r.step + 1)) * s.cfg.tSlot ≤ 199 * s.cfg.tSlot := Nat.mul_le_mul_right _ (by omega)
      rw [slotTicks_of_ne_reset _ hreset]
      omega

/-- A running command commits within the ticks it has left, whatever the bus does (R16). -/
theorem running_commits {i : Instr} : ∀ (n : Nat) {s : State} {r : Run}, Running i s r → ticksLeft i s r ≤ n →
    ∃ k, k ≤ n ∧ (ticks k s).busy = false
  | 0, _, _, ⟨_, _, _, hpos, _⟩, hn => absurd (ticksLeft_pos hpos) (by omega)
  | n + 1, s, r, h, hn => by
    rcases tick_of_running h with hb | ⟨q, hq, hless⟩
    · exact ⟨1, by omega, hb⟩
    · obtain ⟨k, hk, hb⟩ := running_commits n hq (by omega)
      exact ⟨k + 1, by omega, hb⟩

end Sys2Proof.Machine

open Sys2Proof.Machine in
/-- Settles O56, by induction on the ticks a running command has left, which every tick makes fewer. -/
theorem runningCommandCommitsInBoundedTime : Obligations.RunningCommandCommitsInBoundedTime := by
  intro s hinv hb
  obtain ⟨i, r, h⟩ := running_of_inv hinv hb
  exact running_commits _ h (ticksLeft_le h)
end

section
/-! SUPPORT. What the ticks of a running command reach: the end of `T_START` or `T_INT`, or of a slot (R33, R36, R113
to R119). -/

namespace Sys2Proof.Machine

-- Ticks that pass while BUSY = 1

/-- The sequencer goes from s to t, and BUSY is 1 at every tick before t (R24, R36). -/
def RunsTo (s t : State) : Prop :=
  ∃ n, ticks n s = t ∧ t.now = s.now + n ∧ ∀ k, k < n → (ticks k s).busy = true

theorem RunsTo.refl (s : State) : RunsTo s s := ⟨0, rfl, rfl, fun _ hk => absurd hk (Nat.not_lt_zero _)⟩

theorem RunsTo.trans {s t u : State} (h : RunsTo s t) (k : RunsTo t u) : RunsTo s u := by
  obtain ⟨m, rfl, hm, hbm⟩ := h
  obtain ⟨n, rfl, hn, hbn⟩ := k
  refine ⟨m + n, ticks_add m n s, by omega, fun j hj => ?_⟩
  rcases Nat.lt_or_ge j m with hlt | hge
  · exact hbm j hlt
  · obtain ⟨d, rfl⟩ := Nat.exists_eq_add_of_le hge
    rw [ticks_add]
    exact hbn d (by omega)

/-- n ticks before each of which BUSY is 1, the last of them reaching t. -/
theorem runsTo_of_ticks {s t : State} {n : Nat} (hbusy : ∀ k, k ≤ n → (ticks k s).busy = true)
    (hlast : tick (ticks n s) = t) (hnow : t.now = s.now + (n + 1)) : RunsTo s t :=
  ⟨n + 1, by rw [ticks_add]; exact hlast, hnow, fun k hk => hbusy k (by omega)⟩

-- A state at which the sequencer stands

/-- Only the last position of the sequencer counts. -/
@[simp] theorem standAt_standAt (s : State) (i j : Instr) (r q : Run) : (s.standAt j q).standAt i r = s.standAt i r :=
  rfl

@[simp] theorem elapse_elapse (s : State) (m n : Nat) : (s.elapse m).elapse n = s.elapse (m + n) := by
  simp [State.elapse, Nat.add_assoc]

@[simp] theorem elapse_zero (s : State) : s.elapse 0 = s := rfl

theorem tick_standAt (s : State) {i : Instr} {r : Run} (hi : decode r.curCmd = .command i) :
    tick (s.standAt i r) = runTick i ((s.elapse 1).standAt i r) r := tick_of_run rfl hi

/-- A commit overwrites the position of the sequencer (R36). -/
@[simp] theorem commitRun_standAt (s : State) (i j : Instr) (r q : Run) :
    commitRun i (s.standAt j q) r = commitRun i s r := by
  cases i with
  | searchFirst | searchNext => cases h : r.pass <;> simp only [commitRun, h] <;> rfl
  | _ => rfl

@[simp] theorem commitRun_now (i : Instr) (s : State) (r : Run) : (commitRun i s r).now = s.now := by
  cases i with
  | searchFirst | searchNext => cases h : r.pass <;> simp only [commitRun, h] <;> rfl
  | _ => rfl

/-- No commit reads `tick_count`. -/
theorem commitRun_tickCount (i : Instr) (s : State) (r : Run) (t : Nat) :
    commitRun i s { r with tickCount := t } = commitRun i s r := by cases i <;> rfl

/-- The sequencer comes to r: it commits if the command has no slot left, and otherwise stands there (R36, R119). -/
def arrive (i : Instr) (s : State) (r : Run) : State :=
  match currentSlot i s r with
  | none => commitRun i s r
  | some _ => s.standAt i r

theorem arrive_of_slot {i : Instr} {s : State} {r : Run} {k : SlotKind} (h : currentSlot i s r = some k) :
    arrive i s r = s.standAt i r := by simp only [arrive, h]

theorem arrive_of_no_slot {i : Instr} {s : State} {r : Run} (h : currentSlot i s r = none) :
    arrive i s r = commitRun i s r := by simp only [arrive, h]

@[simp] theorem arrive_now (i : Instr) (s : State) (r : Run) : (arrive i s r).now = s.now := by
  unfold arrive
  split
  · exact commitRun_now i s r
  · rfl

@[simp] theorem arrive_standAt (s : State) (i j : Instr) (r q : Run) : arrive i (s.standAt j q) r = arrive i s r := by
  have hc : currentSlot i (s.standAt j q) r = currentSlot i s r := currentSlot_congr i r rfl rfl rfl
  cases hk : currentSlot i s r with
  | none => rw [arrive_of_no_slot hk, arrive_of_no_slot (hc.trans hk), commitRun_standAt]
  | some k => rw [arrive_of_slot hk, arrive_of_slot (hc.trans hk), standAt_standAt]

/-- The end of a slot comes to the next (R36, R119). -/
theorem finishSlot_eq_arrive (i : Instr) (k : SlotKind) (s : State) (r : Run) :
    finishSlot i k s r = arrive i (s.endSlot (slotDone k r.sample)) (r.afterSlot i s.rom) := rfl

@[simp] theorem finishSlot_standAt (s : State) (i j : Instr) (k : SlotKind) (r q : Run) :
    finishSlot i k (s.standAt j q) r = finishSlot i k s r :=
  arrive_standAt (s.endSlot (slotDone k r.sample)) i j (r.afterSlot i s.rom) q

/-- The record of command i at the start of a slot, or of `T_INT` (R33, R237). -/
def AtStart (i : Instr) (r : Run) : Prop := decode r.curCmd = .command i ∧ r.waitLeft = 0 ∧ r.tickCount = 0

theorem AtStart.afterSlot {i : Instr} {r : Run} (h : AtStart i r) (b : Bool) (old : Address) :
    AtStart i ({ r with sample := b }.afterSlot i old) := ⟨h.1, h.2.1, rfl⟩

theorem AtStart.atTick_zero {i : Instr} {r : Run} (h : AtStart i r) : r.atTick 0 r.sample = r := by
  rw [← h.2.2]; rfl

-- T_START and T_INT

/-- The ticks of `T_START` (R119). -/
theorem runsTo_waited {i : Instr} {r : Run} (hi : decode r.curCmd = .command i) (w : Nat) (s : State) :
    RunsTo (s.standAt i { r with waitLeft := w }) ((s.elapse w).standAt i { r with waitLeft := 0 }) := by
  induction w generalizing s with
  | zero => exact .refl _
  | succ w ih =>
    have hstep : tick (s.standAt i { r with waitLeft := w + 1 }) = (s.elapse 1).standAt i { r with waitLeft := w } := by
      rw [tick_standAt s (by exact hi)]
      rfl
    have hone : RunsTo (s.standAt i { r with waitLeft := w + 1 }) ((s.elapse 1).standAt i { r with waitLeft := w }) :=
      runsTo_of_ticks (n := 0) (fun k hk => by rw [Nat.le_zero.mp hk]; rfl) hstep rfl
    refine hone.trans ?_
    rw [Nat.add_comm w 1, ← elapse_elapse]
    exact ih (s.elapse 1)

/-- The slot is that of the record, wherever the line and the position inside the slot are. -/
theorem currentSlot_standing {s u : State} {r : Run} (hu : OnlyBus s u) (i : Instr) (q : Run) (t : Nat) (b : Bool) :
    currentSlot i (u.standAt i q) (r.atTick t b) = currentSlot i s r :=
  (currentSlot_congr (s := s) i _ hu.cfg hu.data hu.matchAddr).trans (currentSlot_congr_run i s rfl rfl)

theorem runTick_of_slot {i : Instr} {s : State} {r : Run} {k : SlotKind} (hw : r.waitLeft = 0)
    (hk : currentSlot i s r = some k) : runTick i s r = slotTick i k s r := by
  simp [runTick, hw, hk]

theorem runTick_of_no_slot {i : Instr} {s : State} {r : Run} (hw : r.waitLeft = 0)
    (hk : currentSlot i s r = none) :
    runTick i s r =
      if s.cfg.tInt ≤ r.tickCount + 1 then commitRun i s r
      else s.standAt i { r with tickCount := r.tickCount + 1 } := by
  simp [runTick, hw, hk]

section internal
variable {i : Instr} {s : State} {r : Run}

/-- A tick of `T_INT` commits, or the position moves on (R36). -/
theorem tick_internal (hr : AtStart i r) (hk : currentSlot i s r = none) (t : Nat) :
    tick ((s.elapse t).standAt i (r.atTick t r.sample)) =
      if s.cfg.tInt ≤ t + 1 then commitRun i (s.elapse (t + 1)) r
      else (s.elapse (t + 1)).standAt i (r.atTick (t + 1) r.sample) := by
  obtain ⟨hi, hw, -⟩ := hr
  have hk' := (currentSlot_standing (r := r) (onlyBus_elapse s (t + 1)) i (r.atTick t r.sample) t r.sample).trans hk
  rw [tick_standAt _ (by exact hi), elapse_elapse, runTick_of_no_slot (r := r.atTick t r.sample) hw hk',
    commitRun_standAt, standAt_standAt]
  exact congrArg (if s.cfg.tInt ≤ t + 1 then · else _) (commitRun_tickCount i (s.elapse (t + 1)) r t)

theorem ticks_internal (hr : AtStart i r) (hk : currentSlot i s r = none) (t : Nat) (ht : t < s.cfg.tInt) :
    ticks t (s.standAt i r) = (s.elapse t).standAt i (r.atTick t r.sample) := by
  induction t with
  | zero => rw [hr.atTick_zero]; rfl
  | succ t ih =>
    rw [ticks_add, ih (by omega), ticks_succ, ticks_zero, tick_internal hr hk, if_neg (by omega)]

/-- A command without a slot commits after `T_INT` (R36). -/
theorem runsTo_internalCommit (hv : s.cfg.Valid) (hr : AtStart i r) (hk : currentSlot i s r = none) :
    RunsTo (s.standAt i r) (commitRun i s.internalDelay r) := by
  obtain ⟨n, hn⟩ : ∃ n, s.cfg.tInt = n + 1 := Nat.exists_eq_succ_of_ne_zero (Nat.one_le_iff_ne_zero.mp hv.2.2.2)
  refine runsTo_of_ticks (n := n) (fun m hm => ?_) ?_ ?_
  · rw [ticks_internal hr hk m (by omega)]; rfl
  · rw [ticks_internal hr hk n (by omega), tick_internal hr hk, if_pos hn.le, ← hn]
    rfl
  · simp [hn]

end internal

-- A slot

/-- The sample of a slot has been taken by the time t of its ticks have passed (R113). -/
def sampledBy (c : OWCConfig) (k : SlotKind) (t : Nat) : Bool := (sampleTick c k).any (· ≤ t)

/-- The state t ticks into a slot of kind k that began in s. -/
def inSlot (k : SlotKind) (t : Nat) (s : State) : State :=
  (if sampledBy s.cfg k t then s.afterSample else s).elapse t

/-- The last sample taken t ticks into a slot of kind k that began in s, b being the one before. -/
def lastSample (k : SlotKind) (t : Nat) (s : State) (b : Bool) : Bool :=
  if sampledBy s.cfg k t then s.senseLevel false k else b

/-- A whole slot of kind k: the last sample after it, b being the one before, and the state (R114 to R116). -/
def runSlot (k : SlotKind) (b : Bool) (s : State) : Bool × State :=
  match k with
  | .reset => resetSlot s
  | .write v => (b, writeSlot v s)
  | .read => readSlot s

theorem onlyBus_inSlot (k : SlotKind) (t : Nat) (s : State) : OnlyBus s (inSlot k t s) := by
  unfold inSlot
  split
  · exact (onlyBus_afterSample s).trans (onlyBus_elapse _ t)
  · exact onlyBus_elapse s t

theorem runSlot_now (k : SlotKind) (b : Bool) (s : State) : (runSlot k b s).2.now = s.now + slotTicks s.cfg k := by
  cases k <;> rfl

/-- A sample instant is not at the start of its slot, lies in it, and the line is released there (R113 to R116). -/
theorem sampleTick_bounds {c : OWCConfig} (hv : c.Valid) {k : SlotKind} {m : Nat} (h : sampleTick c k = some m) :
    0 < m ∧ m ≤ slotTicks c k ∧ driveLowAt c k m = false := by
  obtain ⟨-, ⟨hrl, hmsr⟩, ⟨hrstl, hmsp⟩, -⟩ := hv
  cases k with
  | write b => cases h
  | reset =>
    cases h
    simp only [slotTicks, OWCConfig.tRst, driveLowAt, lowTicks]
    exact ⟨by omega, by omega, decide_eq_false (by omega)⟩
  | read =>
    cases h
    simp only [slotTicks, driveLowAt, lowTicks]
    exact ⟨by omega, by omega, decide_eq_false (by omega)⟩

theorem sampledBy_zero {c : OWCConfig} (hv : c.Valid) (k : SlotKind) : sampledBy c k 0 = false := by
  cases h : sampleTick c k with
  | none => simp [sampledBy, h]
  | some m => simpa [sampledBy, h] using (sampleTick_bounds hv h).1.ne'

/-- By the end of a slot its sample has been taken, if its kind takes one (R114 to R116). -/
theorem sampledBy_slotTicks {c : OWCConfig} (hv : c.Valid) (k : SlotKind) :
    sampledBy c k (slotTicks c k) = (sampleTick c k).isSome := by
  cases h : sampleTick c k with
  | none => simp [sampledBy, h]
  | some m => simpa [sampledBy, h] using (sampleTick_bounds hv h).2.1

theorem sampledBy_succ (c : OWCConfig) (k : SlotKind) (t : Nat) :
    sampledBy c k (t + 1) = (sampledBy c k t || decide (sampleTick c k = some (t + 1))) := by
  cases h : sampleTick c k with
  | none => simp [sampledBy, h]
  | some m => simp [sampledBy, h, Nat.le_succ_iff]

theorem not_sampledBy_of_sampleTick {c : OWCConfig} {k : SlotKind} {t : Nat} (h : sampleTick c k = some (t + 1)) :
    sampledBy c k t = false := by simp [sampledBy, h]

/-- The next tick of a slot takes the sample if this is its instant (R113). -/
theorem takeSample_inSlot {s : State} (hv : s.cfg.Valid) (k : SlotKind) (t : Nat) (i : Instr) (r q : Run) (b : Bool) :
    takeSample k (t + 1) (((inSlot k t s).elapse 1).standAt i q) (r.atTick (t + 1) (lastSample k t s b)) =
      ((inSlot k (t + 1) s).standAt i q, r.atTick (t + 1) (lastSample k (t + 1) s b)) := by
  have hc : (((inSlot k t s).elapse 1).standAt i q).cfg = s.cfg := (onlyBus_inSlot k t s).cfg
  unfold takeSample
  rw [hc]
  by_cases h : sampleTick s.cfg k = some (t + 1)
  · rw [if_pos h, (sampleTick_bounds hv h).2.2]
    simp only [inSlot, lastSample, sampledBy_succ, not_sampledBy_of_sampleTick h, h]
    rfl
  · rw [if_neg h]
    have hs : sampledBy s.cfg k (t + 1) = sampledBy s.cfg k t := by simp [sampledBy_succ, h]
    simp only [inSlot, lastSample, hs, elapse_elapse]

/-- The end of a slot is the slot as a primitive (R114 to R116). -/
theorem endSlot_inSlot {s : State} (hv : s.cfg.Valid) (k : SlotKind) (b : Bool) :
    (lastSample k (slotTicks s.cfg k) s b,
      (inSlot k (slotTicks s.cfg k) s).endSlot (slotDone k (lastSample k (slotTicks s.cfg k) s b))) =
      runSlot k b s := by
  simp only [lastSample, inSlot, sampledBy_slotTicks hv]
  cases k <;> rfl

/-- A tick of a slot, from what it leaves of the sample: the slot ends, or stands one tick further (R114 to R116). -/
theorem slotTick_of_takeSample {i : Instr} {k : SlotKind} {s u : State} {r q : Run}
    (h : takeSample k (r.tickCount + 1) s { r with tickCount := r.tickCount + 1 } = (u, q)) :
    slotTick i k s r = if slotTicks s.cfg k ≤ r.tickCount + 1 then finishSlot i k u q else u.standAt i q := by
  simp only [slotTick, h]

section slot
variable {i : Instr} {s : State} {r : Run} {k : SlotKind}

/-- A tick inside a slot ends it, or moves the position on. -/
theorem tick_inSlot (hv : s.cfg.Valid) (hr : AtStart i r) (hk : currentSlot i s r = some k) (t : Nat) (b : Bool) :
    tick ((inSlot k t s).standAt i (r.atTick t (lastSample k t s b))) =
      if slotTicks s.cfg k ≤ t + 1
      then finishSlot i k (inSlot k (t + 1) s) (r.atTick (t + 1) (lastSample k (t + 1) s b))
      else (inSlot k (t + 1) s).standAt i (r.atTick (t + 1) (lastSample k (t + 1) s b)) := by
  obtain ⟨hi, hw, -⟩ := hr
  have hu := (onlyBus_inSlot k t s).trans (onlyBus_elapse _ 1)
  have hc : (((inSlot k t s).elapse 1).standAt i (r.atTick t (lastSample k t s b))).cfg = s.cfg := hu.cfg
  have hk' := (currentSlot_standing (r := r) hu i (r.atTick t (lastSample k t s b)) t (lastSample k t s b)).trans hk
  have htake := takeSample_inSlot hv k t i r (r.atTick t (lastSample k t s b)) b
  rw [tick_standAt _ (by exact hi), runTick_of_slot (r := r.atTick t (lastSample k t s b)) hw hk',
    slotTick_of_takeSample (r := r.atTick t (lastSample k t s b)) htake, hc, finishSlot_standAt, standAt_standAt]
  rfl

theorem ticks_inSlot (hv : s.cfg.Valid) (hr : AtStart i r) (hk : currentSlot i s r = some k) (t : Nat)
    (ht : t < slotTicks s.cfg k) :
    ticks t (s.standAt i r) = (inSlot k t s).standAt i (r.atTick t (lastSample k t s r.sample)) := by
  induction t with
  | zero => simp [inSlot, lastSample, sampledBy_zero hv, hr.atTick_zero]
  | succ t ih =>
    rw [ticks_add, ih (by omega), ticks_succ, ticks_zero, tick_inSlot hv hr hk, if_neg (by omega)]

/-- The ticks of a slot reach the next, or the commit, as the slot as a primitive does (R36, R114 to R119). -/
theorem runsTo_slotEnd (hv : s.cfg.Valid) (hr : AtStart i r) (hk : currentSlot i s r = some k) :
    RunsTo (s.standAt i r)
      (arrive i (runSlot k r.sample s).2 ({ r with sample := (runSlot k r.sample s).1 }.afterSlot i s.rom)) := by
  obtain ⟨n, hn⟩ : ∃ n, slotTicks s.cfg k = n + 1 := Nat.exists_eq_succ_of_ne_zero (slotTicks_pos hv k).ne'
  refine runsTo_of_ticks (n := n) (fun m hm => ?_) ?_ ?_
  · rw [ticks_inSlot hv hr hk m (by omega)]; rfl
  · rw [ticks_inSlot hv hr hk n (by omega), tick_inSlot hv hr hk, if_pos hn.le, ← hn, finishSlot_eq_arrive,
      (onlyBus_inSlot k _ s).rom, ← endSlot_inSlot hv]
    rfl
  · simp [runSlot_now, hn]

end slot

end Sys2Proof.Machine
end

section
/-! SUPPORT. Each command run tick by tick reaches the state its meaning commits (R36, R119, R171). -/

namespace Sys2Proof.Machine

theorem decode_encode (i : Instr) : decode (encode i) = .command i := by cases i <;> rfl

/-- A byte decodes to a command exactly if it is its code (R91, R94). -/
theorem decode_eq_command_iff {v : Byte} {i : Instr} : decode v = .command i ↔ v = encode i := by
  refine ⟨fun h => ?_, fun h => h ▸ decode_encode i⟩
  unfold decode at h
  split at h <;> cases h
  all_goals exact BitVec.eq_of_toNat_eq ‹_›

-- The start of a command

/-- The record with which a command stands at its first slot, or at the start of `T_INT` (R33). -/
def firstRun (i : Instr) (s : State) : Run := { startRun i s (encode i) with waitLeft := 0 }

theorem firstRun_atStart (i : Instr) (s : State) : AtStart i (firstRun i s) := ⟨decode_encode i, rfl, rfl⟩

theorem startRun_of_slot {i : Instr} {s : State} {k : SlotKind} (hk : currentSlot i s (firstRun i s) = some k) :
    startRun i s (encode i) = { firstRun i s with waitLeft := s.cfg.tStart } :=
  congrArg (fun w => { firstRun i s with waitLeft := w }) (if_pos (Option.isSome_of_eq_some hk))

theorem startRun_of_no_slot {i : Instr} {s : State} (hk : currentSlot i s (firstRun i s) = none) :
    startRun i s (encode i) = firstRun i s :=
  congrArg (fun w => { firstRun i s with waitLeft := w }) (if_neg (Option.not_isSome_iff_eq_none.mpr hk))

/-- An accepted command with a slot stands at its first slot after `T_START` (R119). -/
theorem runsTo_firstSlot {i : Instr} {s : State} {k : SlotKind} (hk : currentSlot i s (firstRun i s) = some k) :
    RunsTo (s.accept i (encode i)) (s.startDelay.standAt i (firstRun i s)) := by
  unfold State.accept
  rw [startRun_of_slot hk]
  exact runsTo_waited (r := firstRun i s) (decode_encode i) s.cfg.tStart s

/-- An accepted command without a slot commits after `T_INT` (R36). -/
theorem runsTo_internal {i : Instr} {s : State} (hv : s.cfg.Valid) (hk : currentSlot i s (firstRun i s) = none) :
    RunsTo (s.accept i (encode i)) (commitRun i s.internalDelay (firstRun i s)) := by
  unfold State.accept
  rw [startRun_of_no_slot hk]
  exact runsTo_internalCommit hv (firstRun_atStart i s) hk

-- Runs of write slots

/-- The record n slots further on, with the rest of it as it is. -/
def Run.slotsOn (r : Run) (n : Nat) : Run := { r with step := r.step + n }

@[simp] theorem slotsOn_step (r : Run) (n : Nat) : (r.slotsOn n).step = r.step + n := rfl
@[simp] theorem slotsOn_slotsOn (r : Run) (m n : Nat) : (r.slotsOn m).slotsOn n = r.slotsOn (m + n) := by
  simp [Run.slotsOn, Nat.add_assoc]

theorem runsTo_writeSlot {i : Instr} {s : State} {r : Run} {b : Bool} (hv : s.cfg.Valid) (hr : AtStart i r)
    (hk : currentSlot i s r = some (.write b)) :
    RunsTo (s.standAt i r) (arrive i (writeSlot b s) (r.afterSlot i s.rom)) := by
  have h := runsTo_slotEnd hv hr hk
  rw [runSlot] at h
  exact h

/-- A run of write slots that leaves the pass as it is, from one place of the record to another (R117, R119). -/
theorem runsTo_writeBits {i : Instr} (hi : i ≠ .readByte) (bits : List Bool) {s : State} {r : Run} (hv : s.cfg.Valid)
    (hr : AtStart i r)
    (hslot : ∀ j (hj : j < bits.length), currentSlot i s (r.slotsOn j) = some (.write bits[j]))
    (hpass : ∀ j, j < bits.length → r.pass.map (fun p => p.afterSlot s.rom (r.step + j) r.sample) = r.pass) :
    RunsTo (arrive i s r) (arrive i (writeBits bits s) (r.slotsOn bits.length)) := by
  induction bits generalizing s r with
  | nil => exact .refl _
  | cons b bits ih =>
    have hk : currentSlot i s r = some (.write b) := hslot 0 (Nat.succ_pos _)
    have hq : r.afterSlot i s.rom = r.slotsOn 1 := by
      have hp : r.pass.map (fun p => p.afterSlot s.rom r.step r.sample) = r.pass := hpass 0 (Nat.succ_pos _)
      simp only [Run.afterSlot, if_neg hi, hp, hr.2.2.symm, Run.slotsOn]
    have hfirst := runsTo_writeSlot hv hr hk
    rw [← arrive_of_slot hk, hq] at hfirst
    have hrest := ih (s := writeSlot b s) (r := r.slotsOn 1) hv hr
      (fun j hj => by
        rw [currentSlot_congr (s := s) (t := writeSlot b s) i _ rfl rfl rfl, slotsOn_slotsOn, Nat.add_comm 1 j]
        exact hslot (j + 1) (Nat.succ_lt_succ hj))
      (fun j hj => by
        rw [slotsOn_step, Nat.add_assoc, Nat.add_comm 1 j]
        exact hpass (j + 1) (Nat.succ_lt_succ hj))
    rw [slotsOn_slotsOn, Nat.add_comm 1] at hrest
    exact hfirst.trans hrest

/-- A command that sends the given bits and writes no register (R141, R143, R200). -/
theorem runsTo_sent {i : Instr} {s : State} {bits : List Bool} (hv : s.cfg.Valid) (hi : i ≠ .readByte)
    (hne : bits ≠ []) (hslot : ∀ q : Run, currentSlot i s q = bits[q.step]?.map .write) (hpass : startPass i s = none)
    (hcommit : ∀ u q, commitRun i u q = u.complete) :
    RunsTo (s.accept i (encode i)) (writeBits bits s.startDelay).complete := by
  have hstep (j : Nat) : ((firstRun i s).slotsOn j).step = j := Nat.zero_add j
  have hat (j : Nat) (hj : j < bits.length) : currentSlot i s ((firstRun i s).slotsOn j) = some (.write bits[j]) := by
    rw [hslot, hstep, List.getElem?_eq_getElem hj]
    rfl
  have hu := (onlyBus_startDelay s).trans (onlyBus_writeBits bits s.startDelay)
  have hend : currentSlot i (writeBits bits s.startDelay) ((firstRun i s).slotsOn bits.length) = none := by
    rw [currentSlot_congr i _ hu.cfg hu.data hu.matchAddr, hslot, hstep, List.getElem?_eq_none le_rfl]
    rfl
  have hfirst : currentSlot i s.startDelay (firstRun i s) = some (.write (bits[0]'(List.length_pos_iff.mpr hne))) :=
    (currentSlot_congr i _ rfl rfl rfl).trans (hat 0 (List.length_pos_iff.mpr hne))
  have hrun := runsTo_writeBits hi bits (s := s.startDelay) (r := firstRun i s) hv (firstRun_atStart i s)
    (fun j hj => (currentSlot_congr i _ rfl rfl rfl).trans (hat j hj))
    (fun j _ => by simp [firstRun, hpass])
  rw [arrive_of_slot hfirst, arrive_of_no_slot hend, hcommit] at hrun
  exact (runsTo_firstSlot (hat 0 (List.length_pos_iff.mpr hne))).trans hrun

theorem writeBit_runsTo {s : State} (hv : s.cfg.Valid) :
    RunsTo (s.accept .writeBit (encode .writeBit)) (writeSlot (bitOf s.data 0) s.startDelay).complete := by
  refine runsTo_sent (bits := [bitOf s.data 0]) hv (by decide) (List.cons_ne_nil _ _) (fun q => ?_) rfl fun _ _ => rfl
  cases h : q.step <;> simp [currentSlot, h]

theorem writeByte_runsTo {s : State} (hv : s.cfg.Valid) :
    RunsTo (s.accept .writeByte (encode .writeByte)) (writeByteSlots s.data s.startDelay).complete :=
  runsTo_sent (bits := bitsOf s.data) hv (by decide) (List.ne_nil_of_length_pos (by simp)) (fun _ => rfl) rfl
    fun _ _ => rfl

theorem select_runsTo {s : State} (hv : s.cfg.Valid) :
    RunsTo (s.accept .select (encode .select)) (writeBits (selectBits s) s.startDelay).complete :=
  runsTo_sent (bits := selectBits s) hv (by decide) (List.ne_nil_of_length_pos (by simp)) (fun _ => rfl) rfl
    fun _ _ => rfl

-- The commands that sample

theorem busReset_runsTo {s : State} (hv : s.cfg.Valid) :
    RunsTo (s.accept .busReset (encode .busReset))
      (commitBusReset (resetSlot s.startDelay).1 (resetSlot s.startDelay).2) :=
  (runsTo_firstSlot rfl).trans
    (runsTo_slotEnd (s := s.startDelay) (k := .reset) hv (firstRun_atStart .busReset s) rfl)

theorem readBit_runsTo {s : State} (hv : s.cfg.Valid) :
    RunsTo (s.accept .readBit (encode .readBit)) (commitReadBit (readSlot s.startDelay).1 (readSlot s.startDelay).2) :=
  (runsTo_firstSlot rfl).trans
    (runsTo_slotEnd (s := s.startDelay) (k := .read) hv (firstRun_atStart .readBit s) rfl)

/-- The last k read slots of READ_BYTE, from the partial byte of the record (R117). -/
theorem runsTo_readBits (k : Nat) {s : State} {r : Run} (hv : s.cfg.Valid) (hr : AtStart .readByte r)
    (hk : r.step + k = 8) :
    RunsTo (arrive .readByte s r)
      (commitReadByte (readBitsFrom k r.partialByte s).1 (readBitsFrom k r.partialByte s).2) := by
  induction k generalizing s r with
  | zero =>
    have hslot : currentSlot .readByte s r = none := if_neg (by omega)
    rw [arrive_of_no_slot hslot]
    exact .refl _
  | succ k ih =>
    have hslot : currentSlot .readByte s r = some .read := if_pos (by omega)
    rw [arrive_of_slot hslot]
    refine (runsTo_slotEnd hv hr hslot).trans ?_
    have hstep : 7 - k = r.step := by omega
    have hrest := ih (s := (readSlot s).2) (r := { r with sample := (readSlot s).1 }.afterSlot .readByte s.rom) hv
      (hr.afterSlot _ _) (show r.step + 1 + k = 8 by omega)
    unfold readBitsFrom
    rw [hstep]
    exact hrest

theorem readByte_runsTo {s : State} (hv : s.cfg.Valid) :
    RunsTo (s.accept .readByte (encode .readByte))
      (commitReadByte (readByteSlots s.startDelay).1 (readByteSlots s.startDelay).2) :=
  (runsTo_firstSlot rfl).trans
    (runsTo_readBits 8 (s := s.startDelay) (r := firstRun .readByte s) hv (firstRun_atStart .readByte s) rfl)

end Sys2Proof.Machine
end

section
/-! SUPPORT. A search pass run tick by tick reaches the state SearchPass commits (R171). -/

namespace Sys2Proof.Machine

theorem OnlyBus.valid {s t : State} (h : OnlyBus s t) (hv : s.cfg.Valid) : t.cfg.Valid := by
  rw [h.cfg]
  exact hv

/-- The slots and the commit of a pass that begins with the pass-local state p and an open outcome, after `T_START`: the
part of SearchPass that runs on the bus (R166, R171). -/
def passOnBus (p : Pass) (s : State) : State :=
  let q := p.afterReset (resetSlot s).1
  if (resetSlot s).1 then commitPass q (resetSlot s).2
  else
    let e := searchPositions 64 s.rom q (writeByteSlots s.cfg.cmdSearchRom (resetSlot s).2)
    commitPass e.1 e.2

theorem searchPass_eq (s : State) :
    searchPass s =
      if s.ldf then commitPass (Pass.start s) s.internalDelay else passOnBus (Pass.start s) s.startDelay := by
  unfold searchPass passOnBus
  generalize searchPositions 64 = positions
  rfl

-- The slots of a pass

section pass
variable {i : Instr} {s : State} {r : Run} {p : Pass} {k : SlotKind}

theorem currentSlot_of_pass (hi : i = .searchFirst ∨ i = .searchNext) (hp : r.pass = some p) :
    currentSlot i s r = p.slot s.cfg r.step := by
  rcases hi with rfl | rfl <;> simp [currentSlot, hp]

theorem commitRun_of_pass (hi : i = .searchFirst ∨ i = .searchNext) (hp : r.pass = some p) :
    commitRun i s r = commitPass p s := by
  rcases hi with rfl | rfl <;> simp only [commitRun, hp]

/-- A pass whose outcome is known commits (R171). -/
theorem arrive_of_closedPass (hi : i = .searchFirst ∨ i = .searchNext) (hp : r.pass = some p) (hc : p.code ≠ .none) :
    arrive i s r = commitPass p s := by
  rw [arrive_of_no_slot ((currentSlot_of_pass hi hp).trans (if_pos hc)), commitRun_of_pass hi hp]

/-- The slot of a pass: its ticks come to the next one, with the pass-local state the end of a slot leaves (R171). -/
theorem runsTo_passSlot (hi : i = .searchFirst ∨ i = .searchNext) (hv : s.cfg.Valid) (hr : AtStart i r)
    (hp : r.pass = some p) (hk : p.slot s.cfg r.step = some k) :
    ∃ q, AtStart i q ∧ q.step = r.step + 1 ∧
      q.pass = some (p.afterSlot s.rom r.step (runSlot k r.sample s).1) ∧
      RunsTo (arrive i s r) (arrive i (runSlot k r.sample s).2 q) := by
  have hslot := (currentSlot_of_pass (s := s) hi hp).trans hk
  refine ⟨_, hr.afterSlot (runSlot k r.sample s).1 s.rom, rfl, ?_, ?_⟩
  · simp [Run.afterSlot, hp]
  · rw [arrive_of_slot hslot]
    exact runsTo_slotEnd hv hr hslot

end pass

/-- The slots of position n, at `step` = 9 + 3 (n - 1) and the two after it: read, read, write (R160). -/
theorem Pass.slot_of_position {p : Pass} (c : OWCConfig) (hc : p.code = .none) {step : Nat} (h9 : 9 ≤ step) :
    p.slot c step = some (if (step - 9) % 3 = 2 then .write p.dir else .read) := by
  unfold Pass.slot
  rw [if_neg (not_not.mpr hc), if_neg (by omega), if_neg (by omega)]
  split <;> rfl

theorem Pass.slot_of_searchByte {p : Pass} (c : OWCConfig) (hc : p.code = .none) {j : Nat}
    (hj : j < (bitsOf c.cmdSearchRom).length) : p.slot c (1 + j) = some (.write (bitsOf c.cmdSearchRom)[j]) := by
  have h8 : j < 8 := hj.trans_eq (length_bitsOf _)
  unfold Pass.slot
  rw [if_neg (not_not.mpr hc), if_neg (by omega), if_pos (by omega), Nat.add_sub_cancel_left,
    List.getElem?_eq_getElem hj]
  rfl

@[simp] theorem classify_n (p : Pass) (old : Address) : (p.classify old).n = p.n := by
  unfold Pass.classify
  split
  · rfl
  · exact takeDirection_n _ _

theorem classify_code (p : Pass) (old : Address) :
    (p.classify old).code = .busFault ∨ (p.classify old).code = p.code := by
  unfold Pass.classify
  split
  · exact .inl rfl
  · exact .inr (takeDirection_code _ _)

section afterSlot
variable (p : Pass) (old : Address) (b : Bool) {step : Nat} (h9 : 9 ≤ step)
include h9

theorem Pass.afterSlot_of_idBit (hm : (step - 9) % 3 = 0) : p.afterSlot old step b = { p with idBit := b } := by
  rw [Pass.afterSlot, if_neg (by omega), if_neg (by omega), if_pos hm]

theorem Pass.afterSlot_of_cmpBit (hm : (step - 9) % 3 = 1) :
    p.afterSlot old step b = { p with cmpBit := b }.classify old := by
  rw [Pass.afterSlot, if_neg (by omega), if_neg (by omega), if_neg (by omega), if_pos hm]

theorem Pass.afterSlot_of_dir (hm : (step - 9) % 3 = 2) : p.afterSlot old step b = p.advance := by
  rw [Pass.afterSlot, if_neg (by omega), if_neg (by omega), if_neg (by omega), if_neg (by omega)]

end afterSlot

/-- The two read slots of a position, and what they make of the pass (R160, R162). -/
def readPosition (old : Address) (p : Pass) (s : State) : Pass × State :=
  (Pass.classify { p with idBit := (readSlot s).1, cmpBit := (readSlot (readSlot s).2).1 } old,
    (readSlot (readSlot s).2).2)

theorem readPosition_n (old : Address) (p : Pass) (s : State) : (readPosition old p s).1.n = p.n := classify_n _ old

theorem readPosition_code (old : Address) (p : Pass) (s : State) :
    (readPosition old p s).1.code = .busFault ∨ (readPosition old p s).1.code = p.code := classify_code _ old

theorem onlyBus_readPosition (old : Address) (p : Pass) (s : State) : OnlyBus s (readPosition old p s).2 :=
  (onlyBus_readSlot s).trans (onlyBus_readSlot _)

/-- A position of a pass: two reads, and the write unless they were a bus fault (R160, R162). -/
theorem searchPositions_succ (k : Nat) (old : Address) (p : Pass) (s : State) :
    searchPositions (k + 1) old p s =
      if (readPosition old p s).1.code = .busFault then readPosition old p s
      else searchPositions k old (readPosition old p s).1.advance
        (writeSlot (readPosition old p s).1.dir (readPosition old p s).2) := rfl

section position
variable {i : Instr} {s : State} {r : Run} {p : Pass}

/-- The two read slots of a position, tick by tick. -/
theorem runsTo_readPosition (hi : i = .searchFirst ∨ i = .searchNext) (hv : s.cfg.Valid) (hr : AtStart i r)
    (hp : r.pass = some p) (hc : p.code = .none) (h9 : 9 ≤ r.step) (hm : (r.step - 9) % 3 = 0) :
    ∃ q, AtStart i q ∧ q.step = r.step + 2 ∧ q.pass = some (readPosition s.rom p s).1 ∧
      RunsTo (arrive i s r) (arrive i (readPosition s.rom p s).2 q) := by
  obtain ⟨q1, hr1, hstep1, hp1, hrun1⟩ := runsTo_passSlot (k := .read) hi hv hr hp
    (by rw [Pass.slot_of_position _ hc h9, if_neg (by omega)])
  rw [Pass.afterSlot_of_idBit _ _ _ h9 hm] at hp1
  rw [runSlot] at hp1 hrun1
  obtain ⟨q2, hr2, hstep2, hp2, hrun2⟩ := runsTo_passSlot (s := (readSlot s).2) (k := .read) hi hv hr1 hp1
    (by rw [Pass.slot_of_position (p := { p with idBit := (readSlot s).1 }) _ hc (by omega), if_neg (by omega)])
  rw [Pass.afterSlot_of_cmpBit _ _ _ (by omega) (by omega)] at hp2
  rw [runSlot] at hp2 hrun2
  exact ⟨q2, hr2, by omega, hp2, hrun1.trans hrun2⟩

/-- The write slot of a position, tick by tick. -/
theorem runsTo_writeDirection (hi : i = .searchFirst ∨ i = .searchNext) (hv : s.cfg.Valid) (hr : AtStart i r)
    (hp : r.pass = some p) (hc : p.code = .none) (h9 : 9 ≤ r.step) (hm : (r.step - 9) % 3 = 2) :
    ∃ q, AtStart i q ∧ q.step = r.step + 1 ∧ q.pass = some p.advance ∧
      RunsTo (arrive i s r) (arrive i (writeSlot p.dir s) q) := by
  obtain ⟨q, hq, hstep, hpq, hrun⟩ := runsTo_passSlot (k := .write p.dir) hi hv hr hp
    (by rw [Pass.slot_of_position _ hc h9, if_pos hm])
  rw [Pass.afterSlot_of_dir _ _ _ h9 hm] at hpq
  rw [runSlot] at hrun
  exact ⟨q, hq, hstep, hpq, hrun⟩

end position

/-- The last k positions of a pass run as the loop of R171 says. -/
theorem runsTo_searchPositions {i : Instr} (hi : i = .searchFirst ∨ i = .searchNext) (k : Nat) {s : State} {r : Run}
    {p : Pass} (hv : s.cfg.Valid) (hr : AtStart i r) (hp : r.pass = some p)
    (hc : p.code = if k = 0 then .found else .none) (hn : p.n + k = 65) (h1 : 1 ≤ p.n)
    (hstep : r.step = 9 + 3 * (p.n - 1)) :
    RunsTo (arrive i s r) (commitPass (searchPositions k s.rom p s).1 (searchPositions k s.rom p s).2) := by
  induction k generalizing s r p with
  | zero =>
    rw [arrive_of_closedPass hi hp (by rw [hc]; decide)]
    exact .refl _
  | succ k ih =>
    rw [if_neg (Nat.succ_ne_zero k)] at hc
    obtain ⟨q, hrq, hstepq, hpq, hrun⟩ := runsTo_readPosition hi hv hr hp hc (by omega) (by omega)
    have hu := onlyBus_readPosition s.rom p s
    have hpn := readPosition_n s.rom p s
    have hcode := readPosition_code s.rom p s
    rw [searchPositions_succ]
    refine hrun.trans ?_
    generalize readPosition s.rom p s = e at *
    by_cases hf : e.1.code = .busFault
    · rw [arrive_of_closedPass hi hpq (by rw [hf]; decide), if_pos hf]
      exact .refl _
    · have hopen : e.1.code = .none := (hcode.resolve_left hf).trans hc
      obtain ⟨q', hrq', hstepq', hpq', hrun'⟩ := runsTo_writeDirection (s := e.2) hi (hu.valid hv) hrq hpq hopen
        (by omega) (by omega)
      have hadvance : e.1.advance.n = p.n + 1 := congrArg (· + 1) hpn
      have hrest := ih (s := writeSlot e.1.dir e.2) (p := e.1.advance) (hu.valid hv) hrq' hpq'
        (if_congr (by omega) rfl rfl) (by omega) (by omega) (by omega)
      rw [show (writeSlot e.1.dir e.2).rom = s.rom from hu.rom] at hrest
      rw [if_neg hf]
      exact hrun'.trans hrest

/-- The slots of the search byte leave the pass as it is (R166). -/
theorem runsTo_searchByte {i : Instr} (hi : i = .searchFirst ∨ i = .searchNext) {s : State} {r : Run} {p : Pass}
    (hv : s.cfg.Valid) (hr : AtStart i r) (hp : r.pass = some p) (hc : p.code = .none) (hstep : r.step = 1) :
    RunsTo (arrive i s r) (arrive i (writeByteSlots s.cfg.cmdSearchRom s) (r.slotsOn 8)) := by
  refine runsTo_writeBits ?_ (bitsOf s.cfg.cmdSearchRom) hv hr (fun j hj => ?_) (fun j hj => ?_)
  · rcases hi with rfl | rfl <;> decide
  · rw [currentSlot_of_pass hi (p := p) (by exact hp), slotsOn_step, hstep]
    exact Pass.slot_of_searchByte s.cfg hc hj
  · rw [length_bitsOf] at hj
    rw [hp, hstep, Option.map_some, Pass.afterSlot, if_neg (by omega), if_pos (by omega)]

-- A whole pass

/-- A pass whose outcome is open at its first slot runs as SearchPass says: the reset slot, the search byte if a device is
present, and the positions (R166, R171). -/
theorem runsTo_pass {i : Instr} (hi : i = .searchFirst ∨ i = .searchNext) {s : State} {r : Run} {p : Pass}
    (hv : s.cfg.Valid) (hr : AtStart i r) (hp : r.pass = some p) (hc : p.code = .none) (hn : p.n = 1)
    (hstep : r.step = 0) : RunsTo (arrive i s r) (passOnBus p s) := by
  obtain ⟨q, hrq, hstepq, hpq, hrun⟩ := runsTo_passSlot (s := s) (k := .reset) hi hv hr hp
    (by rw [Pass.slot, if_neg (not_not.mpr hc), if_pos hstep])
  rw [hstep, runSlot, Pass.afterSlot, if_pos rfl] at hpq
  rw [runSlot] at hrun
  refine hrun.trans ?_
  unfold passOnBus
  by_cases hb : (resetSlot s).1 = true
  · rw [if_pos hb, arrive_of_closedPass hi hpq (by rw [Pass.afterReset, hb]; exact SearchCode.noConfusion)]
    exact .refl _
  · have hopen : (p.afterReset (resetSlot s).1).code = .none := if_neg hb
    rw [if_neg hb]
    have hu := (onlyBus_resetSlot s).trans (onlyBus_writeBits (bitsOf s.cfg.cmdSearchRom) (resetSlot s).2)
    have hbyte := runsTo_searchByte (s := (resetSlot s).2) hi hv hrq hpq hopen (by omega)
    have hrest := runsTo_searchPositions (s := writeByteSlots s.cfg.cmdSearchRom (resetSlot s).2) (r := q.slotsOn 8)
      hi 64 (hu.valid hv) hrq hpq (hopen.trans (if_neg (by decide)).symm) (show p.n + 64 = 65 by omega)
      (show 1 ≤ p.n by omega) (show q.step + 8 = 9 + 3 * (p.n - 1) by omega)
    rw [show (writeByteSlots s.cfg.cmdSearchRom (resetSlot s).2).rom = s.rom from hu.rom] at hrest
    exact hbyte.trans hrest

section start
variable {i : Instr} {s : State} {p : Pass}

/-- An accepted search command with its outcome open runs the pass on the bus (R119, R171). -/
theorem search_runsTo_onBus (hi : i = .searchFirst ∨ i = .searchNext) (hv : s.cfg.Valid)
    (hp : startPass i s = some p) (hc : p.code = .none) (hn : p.n = 1) : RunsTo (s.accept i (encode i)) (passOnBus p s.startDelay) := by
  have hslot : currentSlot i s (firstRun i s) = some .reset :=
    (currentSlot_of_pass hi (p := p) hp).trans (by rw [Pass.slot, if_neg (not_not.mpr hc)]; rfl)
  have hrun := runsTo_pass (s := s.startDelay) (r := firstRun i s) hi hv (firstRun_atStart i s) hp hc hn rfl
  rw [arrive_of_slot ((currentSlot_congr (s := s) (t := s.startDelay) i _ rfl rfl rfl).trans hslot)] at hrun
  exact (runsTo_firstSlot hslot).trans hrun

/-- An accepted search command that begins EXHAUSTED commits after `T_INT` (R167). -/
theorem search_runsTo_exhausted (hi : i = .searchFirst ∨ i = .searchNext) (hv : s.cfg.Valid)
    (hp : startPass i s = some p) (hc : p.code ≠ .none) :
    RunsTo (s.accept i (encode i)) (commitPass p s.internalDelay) := by
  have hrun := runsTo_internal hv ((currentSlot_of_pass (s := s) (r := firstRun i s) hi hp).trans (if_pos hc))
  rw [commitRun_of_pass hi (r := firstRun i s) hp] at hrun
  exact hrun

end start

theorem searchNext_runsTo {s : State} (hv : s.cfg.Valid) :
    RunsTo (s.accept .searchNext (encode .searchNext)) (searchPass s) := by
  rw [searchPass_eq]
  cases hl : s.ldf with
  | true =>
    exact search_runsTo_exhausted (.inr rfl) hv rfl (by rw [Pass.start, hl]; exact SearchCode.noConfusion)
  | false => exact search_runsTo_onBus (.inr rfl) hv rfl (by rw [Pass.start, hl]; rfl) rfl

-- SEARCH_FIRST: the slots do not see that the search state has been cleared, and the commit overwrites it (R173)

theorem writeBits_clearSearch (bits : List Bool) (s : State) :
    writeBits bits s.clearSearch = (writeBits bits s).clearSearch := by
  induction bits generalizing s with
  | nil => rfl
  | cons b bits ih => exact ih (writeSlot b s)

theorem searchPositions_clearSearch (k : Nat) (old : Address) (p : Pass) (s : State) :
    searchPositions k old p s.clearSearch =
      ((searchPositions k old p s).1, (searchPositions k old p s).2.clearSearch) := by
  induction k generalizing p s with
  | zero => rfl
  | succ k ih =>
    have hread : readPosition old p s.clearSearch =
      ((readPosition old p s).1, (readPosition old p s).2.clearSearch) := rfl
    rw [searchPositions_succ, searchPositions_succ, hread]
    by_cases hf : (readPosition old p s).1.code = .busFault
    · rw [if_pos hf, if_pos hf]
    · rw [if_neg hf, if_neg hf]
      exact ih _ (writeSlot (readPosition old p s).1.dir (readPosition old p s).2)

theorem commitPass_clearSearch (p : Pass) (s : State) : commitPass p s.clearSearch = commitPass p s := rfl

theorem passOnBus_clearSearch (p : Pass) (s : State) : passOnBus p s.clearSearch = passOnBus p s := by
  have hreset : resetSlot s.clearSearch = ((resetSlot s).1, (resetSlot s).2.clearSearch) := rfl
  unfold passOnBus writeByteSlots
  rw [hreset, State.clearSearch_rom, State.clearSearch_cfg]
  simp only [writeBits_clearSearch, searchPositions_clearSearch, commitPass_clearSearch]

/-- The pass of SEARCH_FIRST is never EXHAUSTED, and runs in the state as it was accepted (R173). -/
theorem searchPass_clearSearch (s : State) :
    searchPass s.clearSearch = passOnBus (Pass.start s.clearSearch) s.startDelay :=
  (searchPass_eq s.clearSearch).trans (passOnBus_clearSearch _ s.startDelay)

theorem searchFirst_runsTo {s : State} (hv : s.cfg.Valid) :
    RunsTo (s.accept .searchFirst (encode .searchFirst)) (searchPass s.clearSearch) := by
  rw [searchPass_clearSearch]
  exact search_runsTo_onBus (.inl rfl) hv rfl rfl rfl

end Sys2Proof.Machine
end

section
/-! SUPPORT. Every command run tick by tick: its commit, and what is seen of it before (R33, R36, R272). -/

namespace Sys2Proof.Machine

/-- From its acceptance a command runs, with BUSY = 1 at every tick, to the state its meaning commits (R33, R36). -/
theorem exec_runsTo {i : Instr} {s t : State} (hv : s.cfg.Valid) (h : exec i s = .next t) :
    RunsTo (s.accept i (encode i)) t := by
  cases i with
  | busReset => cases h; exact busReset_runsTo hv
  | writeBit => cases h; exact writeBit_runsTo hv
  | readBit => cases h; exact readBit_runsTo hv
  | writeByte => cases h; exact writeByte_runsTo hv
  | readByte => cases h; exact readByte_runsTo hv
  | searchFirst => cases h; exact searchFirst_runsTo hv
  | searchNext => cases h; exact searchNext_runsTo hv
  | select => cases h; exact select_runsTo hv
  | searchReset | crcClear | crcFeed | crcRom => cases h; exact runsTo_internal hv rfl

/-- The ticks from acceptance to commit are the duration of the command (R272). -/
theorem ticks_duration {i : Instr} {s t : State} (hv : s.cfg.Valid) (h : exec i s = .next t) :
    ticks (t.now - s.now) (s.accept i (encode i)) = t := by
  obtain ⟨n, hn, hnow, -⟩ := exec_runsTo hv h
  have : t.now = s.now + n := hnow
  rwa [this, Nat.add_sub_cancel_left]

theorem busy_before_commit {i : Instr} {s t : State} {k : Nat} (hv : s.cfg.Valid) (h : exec i s = .next t)
    (hk : k < t.now - s.now) : (ticks k (s.accept i (encode i))).busy = true := by
  obtain ⟨n, -, hnow, hbusy⟩ := exec_runsTo hv h
  have : t.now = s.now + n := hnow
  exact hbusy k (by omega)

-- What is seen of a command before its commit (R36)

theorem SameRegsExcept.trans {rs : List Reg} {s t u : State} (h : SameRegsExcept rs s t) (k : SameRegsExcept rs t u) :
    SameRegsExcept rs s u := fun r hr hn => (k r hr hn).trans (h r hr hn)

theorem SameFlagsExcept.trans {fs : List Flag} {s t u : State} (h : SameFlagsExcept fs s t)
    (k : SameFlagsExcept fs t u) : SameFlagsExcept fs s u := fun f hf hn => (k f hf hn).trans (h f hf hn)

theorem OnlyBus.standAt_regs {s u : State} (h : OnlyBus s u) (i : Instr) (q : Run) :
    SameRegsExcept [] s (u.standAt i q) ∧ SameFlagsExcept [] s (u.standAt i q) :=
  ⟨fun r hr _ => (State.standAt_regValue u i q hr).trans (h.regValue r),
    fun f hf _ => (State.standAt_flag u i q hf).trans (h.flag f)⟩

/-- Everything a tick can do: work on the line and the time, and for a running command commit it or let it stand further
on (R9, R33, R36). -/
theorem tick_cases (s : State) :
    OnlyBus s (tick s) ∨
    s.busy = true ∧ ∃ u i q, OnlyBus s u ∧ (tick s = commitRun i u q ∨ tick s = u.standAt i q) := by
  cases hp : s.phase with
  | idle => exact .inl (tick_of_idle hp ▸ onlyBus_elapse s 1)
  | run r =>
    cases hi : decode r.curCmd with
    | illegal => exact .inl (by simpa [tick, hp, hi] using onlyBus_elapse s 1)
    | command i =>
      rw [tick_of_run hp hi]
      obtain ⟨u, q, hu, hc⟩ := runTick_commits_or_stands i (s.elapse 1) r
      exact .inr ⟨State.busy_of_run hp, u, i, q, (onlyBus_elapse s 1).trans hu, hc⟩

/-- A tick that leaves BUSY at 1 has found it so, and changes no register and no other flag (R24, R36). -/
theorem tick_of_busy_after {s : State} (h : (tick s).busy = true) :
    s.busy = true ∧ SameRegsExcept [] s (tick s) ∧ SameFlagsExcept [] s (tick s) := by
  rcases tick_cases s with hu | ⟨hb, u, i, q, hu, hc | hc⟩
  · exact ⟨(hu.flag .busy).symm.trans h, fun r _ _ => hu.regValue r, fun f _ _ => hu.flag f⟩
  · rw [hc, commitRun_busy] at h
    exact absurd h Bool.false_ne_true
  · rw [hc]
    exact ⟨hb, hu.standAt_regs i q⟩

theorem ticks_of_busy_after {k : Nat} {s : State} (h : (ticks k s).busy = true) :
    SameRegsExcept [] s (ticks k s) ∧ SameFlagsExcept [] s (ticks k s) := by
  induction k with
  | zero => exact ⟨fun _ _ _ => rfl, fun _ _ _ => rfl⟩
  | succ k ih =>
    rw [ticks_add] at h ⊢
    obtain ⟨hb, hregs, hflags⟩ := tick_of_busy_after h
    obtain ⟨ihr, ihf⟩ := ih hb
    exact ⟨ihr.trans hregs, ihf.trans hflags⟩

end Sys2Proof.Machine

open Sys2Proof.Machine in
/-- Settles O51: the ticks of each slot are the slot as a primitive, and those of `T_INT` come to the same commit. -/
theorem ticksReachTheCommit : Obligations.TicksReachTheCommit :=
  fun _ _ _ hv _ _ h => ticks_duration hv h

open Sys2Proof.Machine in
/-- Settles O52, by induction on the positions of the pass that are left. -/
theorem searchTicksReachTheCommit : Obligations.SearchTicksReachTheCommit :=
  fun _ _ _ hv _ h => ticks_duration hv h

open Sys2Proof Sys2Proof.Machine in
/-- Settles O53: every tick before the commit leaves the sequencer standing in a slot or in a delay. -/
theorem onlyBusyShowsBeforeTheCommit : Obligations.OnlyBusyShowsBeforeTheCommit := by
  intro i s t k hv h hk
  have hb := busy_before_commit hv h hk
  obtain ⟨hregs, hflags⟩ := ticks_of_busy_after hb
  obtain ⟨hregs₀, hflags₀⟩ := (OnlyBus.refl s).standAt_regs i (startRun i s (encode i))
  exact ⟨hb, SameRegsExcept.trans hregs₀ hregs, SameFlagsExcept.trans hflags₀ hflags⟩
end

section
/-! SUPPORT. The invariant of the machine from step to step (R33, R34, R42, R44). -/

namespace Sys2Proof.Machine

-- The search state (R42) and FOUND (R40)

/-- What the invariant says of the search registers and FOUND. -/
def SearchFieldsInv (s : State) : Prop := SearchStateInv s ∧ FoundInv s

theorem OnlyBus.searchFieldsInv {s t : State} (h : OnlyBus s t) (hs : SearchFieldsInv s) : SearchFieldsInv t := by
  rw [h]
  exact hs

/-- Where LD, LFD and LDF are at their initial values, nothing else of R42 is asked. -/
theorem searchStateInv_of_cleared {s : State} (hld : s.ld = 0) (hlfd : s.lfd = 0) (hldf : s.ldf = false) :
    SearchStateInv s := by
  simp [SearchStateInv, hld, hlfd, hldf]

theorem searchFieldsInv_clearSearch {s : State} (h : SearchFieldsInv s) : SearchFieldsInv s.clearSearch :=
  ⟨searchStateInv_of_cleared rfl rfl rfl, h.2⟩

theorem outcome_eq_found_iff (p : Pass) : p.outcome = .found ↔ p.code = .found ∧ addrByte p.rom 0 ≠ 0x00 := by
  unfold Pass.outcome
  split
  next h => simp [h.2]
  next h => exact ⟨fun hc => ⟨hc, fun h0 => h ⟨hc, h0⟩⟩, fun hc => hc.1⟩

/-- The commit of a pass keeps R42: LD is a position of which the pass wrote a 0, or everything is reset (R168, R169). -/
theorem searchFieldsInv_commitPass {p : Pass} {n : Nat} (h : p.Inv n) (s : State) :
    SearchFieldsInv (commitPass p s) := by
  refine ⟨?_, rfl⟩
  by_cases ho : p.outcome = .found
  · obtain ⟨hcode, hbyte⟩ := (outcome_eq_found_iff p).mp ho
    obtain ⟨hlfd, hrom, hlast⟩ := h
    simp only [hcode] at hlast
    obtain ⟨-, h64⟩ := hlast
    obtain ⟨eld, elfd, eldf⟩ := commitPass_of_found p s ho
    have hnat : (commitPass p s).ld.toNat = p.lastZero := by rw [eld, BitVec.toNat_ofNat]; omega
    have hzero : (commitPass p s).ld = 0 ↔ p.lastZero = 0 := by
      rw [← hnat]
      exact ⟨fun h0 => by rw [h0]; rfl, fun h0 => BitVec.eq_of_toNat_eq h0⟩
    refine ⟨hnat.trans_le h64, elfd ▸ hlfd, fun hf => hzero.mpr (of_decide_eq_true (eldf ▸ hf)), fun hne => ?_,
      fun _ => ⟨decide_eq_true ho, hbyte⟩⟩
    rw [hnat]
    exact hrom (mt hzero.mpr hne)
  · obtain ⟨eld, elfd, eldf⟩ := commitPass_of_not_found p s ho
    exact searchStateInv_of_cleared eld elfd eldf

theorem searchFieldsInv_commitRun {i : Instr} {s : State} {r : Run} (hs : SearchFieldsInv s) (hp : PassInv i r) :
    SearchFieldsInv (commitRun i s r) := by
  cases i with
  | searchFirst | searchNext =>
    obtain ⟨p, hp, hinv⟩ := exists_pass_of_search hp (by simp)
    rw [commitRun_of_pass (by simp) hp]
    exact searchFieldsInv_commitPass hinv s
  | searchReset => exact show SearchFieldsInv s.clearSearch from searchFieldsInv_clearSearch hs
  | busReset | writeBit | readBit | writeByte | readByte | select | crcClear | crcFeed | crcRom => exact hs

-- The invariant, by the phase

theorem inv_of_idle {s : State} (hp : s.phase = .idle) :
    Inv s ↔ s.cfg.Valid ∧ SearchFieldsInv s ∧ s.owDriveLow = false := by
  simp only [Inv, SearchFieldsInv, hp, and_assoc]

theorem inv_of_run {s : State} {r : Run} (hp : s.phase = .run r) :
    Inv s ↔ s.cfg.Valid ∧ SearchFieldsInv s ∧ RunInv s r := by
  simp only [Inv, SearchFieldsInv, hp, and_assoc]

theorem Inv.valid {s : State} (h : Inv s) : s.cfg.Valid := h.1

theorem Inv.searchFields {s : State} (h : Inv s) : SearchFieldsInv s := ⟨h.2.1, h.2.2.1⟩

theorem inv_standAt {i : Instr} {s : State} {r : Run} (hv : s.cfg.Valid) (hs : SearchFieldsInv s)
    (hi : decode r.curCmd = .command i) (hpos : PositionInv i s r) (hpass : PassInv i r) : Inv (s.standAt i r) :=
  (inv_of_run rfl).mpr ⟨hv, hs, i, hi, (positionInv_congr i r rfl rfl rfl).mpr hpos, hpass,
    (driveLow_congr i r rfl rfl rfl).symm⟩

theorem commitRun_committed (i : Instr) (s : State) (r : Run) : Committed (commitRun i s r) := by
  cases i with
  | searchFirst | searchNext =>
    unfold commitRun
    cases r.pass <;> exact ⟨rfl, rfl⟩
  | _ => exact ⟨rfl, rfl⟩

theorem inv_commitRun {i : Instr} {s : State} {r : Run} (hv : s.cfg.Valid) (hs : SearchFieldsInv s)
    (hpass : PassInv i r) : Inv (commitRun i s r) := by
  obtain ⟨hidle, hline⟩ := commitRun_committed i s r
  refine (inv_of_idle hidle).mpr ⟨?_, searchFieldsInv_commitRun hs hpass, hline⟩
  rw [(commitRun_sameHostSide i s r).1]
  exact hv

-- The start of a command (R33, R71)

theorem positionInv_startRun {s : State} (hv : s.cfg.Valid) (i : Instr) :
    PositionInv i s (startRun i s (encode i)) := by
  cases hk : currentSlot i s (firstRun i s) with
  | none =>
    rw [startRun_of_no_slot hk]
    exact (positionInv_of_no_slot hk).mpr ⟨rfl, rfl, hv.2.2.2⟩
  | some k =>
    rw [startRun_of_slot hk]
    have hk' := (currentSlot_congr_run (q := { firstRun i s with waitLeft := s.cfg.tStart }) i s rfl rfl).trans hk
    exact (positionInv_of_slot hk').mpr ⟨le_rfl, fun _ => ⟨rfl, rfl⟩, slotTicks_pos hv k⟩

theorem Pass.inv_start {s : State} (h : SearchFieldsInv s) : (Pass.start s).Inv 0 := by
  obtain ⟨⟨-, hlfd, -⟩, -⟩ := h
  refine ⟨hlfd, fun h0 => absurd rfl h0, ?_⟩
  cases hl : s.ldf <;> simp [Pass.start, hl]

theorem passInv_startRun {s : State} (h : SearchFieldsInv s) (i : Instr) (v : Byte) : PassInv i (startRun i s v) := by
  unfold PassInv
  rw [startRun_pass]
  cases i with
  | searchFirst => exact ⟨.inl rfl, Pass.inv_start (searchFieldsInv_clearSearch h)⟩
  | searchNext => exact ⟨.inr rfl, Pass.inv_start h⟩
  | _ => exact ⟨Instr.noConfusion, Instr.noConfusion⟩

theorem inv_accept {s : State} (hv : s.cfg.Valid) (h : SearchFieldsInv s) (i : Instr) : Inv (s.accept i (encode i)) :=
  inv_standAt hv h (decode_encode i) (positionInv_startRun hv i) (passInv_startRun h i (encode i))

-- Each kind of step

theorem inv_tick {s : State} (h : Inv s) : Inv (tick s) := by
  cases hp : s.phase with
  | idle =>
    rw [tick_of_idle hp]
    exact (inv_of_idle hp).mpr ((inv_of_idle hp).mp h)
  | run r =>
    obtain ⟨hv, hs, i, hi, hpos, hpass, -⟩ := (inv_of_run hp).mp h
    rw [tick_of_run hp hi]
    have hpos' : PositionInv i (s.elapse 1) r := (positionInv_congr i r rfl rfl rfl).mpr hpos
    obtain ⟨u, q, hu, ⟨-, hq, hc⟩ | ⟨⟨hcmd, hq, hqpass, -⟩, hc⟩⟩ :=
      runTick_commits_or_standsNearer (s := s.elapse 1) hv hpos' hpass
    · rw [hc]
      exact inv_commitRun (hu.valid hv) (hu.searchFieldsInv hs) hq
    · rw [hc]
      exact inv_standAt (hu.valid hv) (hu.searchFieldsInv hs) (hcmd ▸ hi)
        ((positionInv_congr i q hu.cfg hu.data hu.matchAddr).mpr hq) hqpass

theorem inv_ticks {s : State} (h : Inv s) (n : Nat) : Inv (ticks n s) := by
  induction n generalizing s with
  | zero => exact h
  | succ n ih => exact ih (inv_tick h)

/-- A command as one change of state keeps the invariant, because its ticks do (R36). -/
theorem inv_exec {i : Instr} {s t : State} (hv : s.cfg.Valid) (hs : SearchFieldsInv s) (h : exec i s = .next t) :
    Inv t := by
  rw [← ticks_duration hv h]
  exact inv_ticks (inv_accept hv hs i) _

theorem inv_sequencerTurn {s t : State} {rest : List HostEvent} (hs : Inv s) (h : sequencerTurn s rest = .next t) :
    Inv t := by
  rcases sequencerTurn_cases h with ⟨-, rfl⟩ | ⟨r, i, -, -, ⟨-, he⟩ | ⟨-, rfl⟩⟩
  · exact hs
  · exact inv_exec (s := { s with host := rest }) hs.valid hs.searchFields he
  · exact inv_tick hs

theorem inv_blockReset {s : State} (h : s.cfg.Valid) : Inv s.blockReset :=
  (inv_of_idle rfl).mpr ⟨h, ⟨searchStateInv_of_cleared rfl rfl rfl, rfl⟩, rfl⟩

theorem inv_assertReset {s : State} (h : s.cfg.Valid) : Inv (assertReset s) := by
  rcases assertReset_cases s with ⟨-, he⟩ | ⟨d, -, he⟩ <;> rw [he]
  · exact inv_blockReset h
  · exact inv_blockReset (s := s.endSlot d) h

/-- A store keeps the invariant if it keeps it in IDLE, where nothing reads DATA or MATCH (R70, R71). -/
theorem inv_storeIfIdle {s u : State} (h : Inv s) (hu : s.phase = .idle → Inv u) : Inv (s.storeIfIdle u) := by
  cases hb : s.busy with
  | true => rw [storeIfIdle_of_busy hb]; exact h
  | false => rw [storeIfIdle_of_idle hb]; exact hu (State.busy_eq_false_iff.mp hb)

theorem inv_writeCmd {s : State} (h : Inv s) (v : Byte) : Inv (s.writeCmd v) := by
  cases hb : s.busy with
  | true => rw [writeCmd_of_busy hb]; exact h
  | false =>
    cases hv : decode v with
    | illegal => rw [writeCmd_of_illegal hb hv]; exact h
    | command i =>
      rw [writeCmd_of_command hb hv, decode_eq_command_iff.mp hv]
      exact inv_accept h.valid h.searchFields i

theorem inv_hostWrite {s : State} (h : Inv s) (off : Nat) (v : Byte) : Inv (hostWrite s off v) := by
  rcases hostWrite_cases s off v with ⟨-, he⟩ | ⟨-, he⟩ | ⟨-, he⟩ | ⟨i, -, he⟩ | ⟨-, he⟩ <;> rw [he]
  · exact inv_writeCmd h v
  · exact h
  · exact inv_storeIfIdle h fun hp =>
      (inv_of_idle (s := { s with data := v }) hp).mpr ((inv_of_idle hp).mp h)
  · exact inv_storeIfIdle h fun hp =>
      (inv_of_idle (s := { s with matchAddr := s.matchAddr.set i v }) hp).mpr ((inv_of_idle hp).mp h)
  · exact h

end Sys2Proof.Machine

open Sys2Proof.Machine in
/-- Settles O60, by the kinds of step: a tick keeps the invariant, hence so does a command as one change of state, which
is what its ticks come to; a host write changes a register of the invariant in IDLE alone. -/
theorem stepKeepsTheInvariant : Obligations.StepKeepsTheInvariant := by
  intro s t hs h
  rcases step_cases h with ⟨-, h⟩ | ⟨rest, -, h⟩ | ⟨rest, -, rfl⟩ | ⟨rest, -, rfl⟩ | ⟨off, v, rest, -, -, rfl⟩ |
    ⟨off, rest, -, -, rfl⟩
  · exact inv_sequencerTurn hs h
  · exact inv_sequencerTurn hs h
  · exact inv_tick (s := { s with host := rest }) hs
  · exact inv_assertReset hs.valid
  · exact inv_hostWrite (s := { s with host := rest }) hs off v
  · exact hs
end

section
/-! SUPPORT. What a command writes (R46), as a commit after slots (R36). -/

namespace Sys2Proof.Machine

theorem passOnBus_commits (p : Pass) (s : State) : ∃ u q, OnlyBus s u ∧ passOnBus p s = commitPass q u := by
  unfold passOnBus
  split
  · exact ⟨_, _, onlyBus_resetSlot s, rfl⟩
  · exact ⟨_, _, ((onlyBus_resetSlot s).trans (onlyBus_writeBits _ _)).trans (onlyBus_searchPositions _ _ _ _), rfl⟩

theorem searchPass_commits (s : State) : ∃ u q, OnlyBus s u ∧ searchPass s = commitPass q u := by
  rw [searchPass_eq]
  split
  · exact ⟨_, _, onlyBus_internalDelay s, rfl⟩
  · exact passOnBus_commits _ s.startDelay

/-- The meaning of a command is time and slots, and then its commit (R36). -/
theorem exec_commits {i : Instr} {s t : State} (h : exec i s = .next t) : ∃ u q, OnlyBus s u ∧ t = commitRun i u q := by
  cases i with
  | busReset =>
    cases h
    exact ⟨(resetSlot s.startDelay).2, { firstRun .busReset s with sample := (resetSlot s.startDelay).1 }, rfl, rfl⟩
  | readBit =>
    cases h
    exact ⟨(readSlot s.startDelay).2, { firstRun .readBit s with sample := (readSlot s.startDelay).1 }, rfl, rfl⟩
  | readByte =>
    cases h
    exact ⟨(readByteSlots s.startDelay).2,
      { firstRun .readByte s with partialByte := (readByteSlots s.startDelay).1 },
      (onlyBus_startDelay s).trans (onlyBus_readBitsFrom 8 0x00 _), rfl⟩
  | writeBit => cases h; exact ⟨writeSlot (bitOf s.data 0) s.startDelay, firstRun .writeBit s, rfl, rfl⟩
  | writeByte | select =>
    cases h
    exact ⟨_, firstRun .select s, (onlyBus_startDelay s).trans (onlyBus_writeBits _ _), rfl⟩
  | searchFirst =>
    cases h
    obtain ⟨u, p, hu, hc⟩ := passOnBus_commits (Pass.start s.clearSearch) s.startDelay
    exact ⟨u, { firstRun .searchFirst s with pass := some p }, hu, (searchPass_clearSearch s).trans hc⟩
  | searchNext =>
    cases h
    obtain ⟨u, p, hu, hc⟩ := searchPass_commits s
    exact ⟨u, { firstRun .searchNext s with pass := some p }, hu, hc⟩
  | searchReset | crcClear | crcFeed | crcRom =>
    cases h
    exact ⟨s.internalDelay, firstRun .crcRom s, rfl, rfl⟩

/-- A commit writes no register the matrix does not give it (R46). -/
theorem commitRun_regValue {i : Instr} {r : Reg} (h : writesReg i r = false) (s : State) (q : Run) :
    (commitRun i s q).regValue r = s.regValue r := by
  cases i with
  | busReset | writeBit | writeByte | select =>
    cases r with
    | status => exact Bool.noConfusion h
    | _ => rfl
  | readBit | readByte =>
    cases r with
    | status | data => exact Bool.noConfusion h
    | _ => rfl
  | searchReset =>
    cases r with
    | status | ld | lfd => exact Bool.noConfusion h
    | _ => rfl
  | crcClear | crcFeed | crcRom =>
    cases r with
    | status | crc => exact Bool.noConfusion h
    | _ => rfl
  | searchFirst | searchNext =>
    unfold commitRun
    cases r with
    | status | ld | lfd | sresult | rom => exact Bool.noConfusion h
    | _ => cases q.pass <;> rfl

/-- A commit writes no field of STATUS the matrix does not give it (R46). -/
theorem commitRun_flag {i : Instr} {f : Flag} (h : writesFlag i f = false) (s : State) (q : Run) :
    (commitRun i s q).flag f = s.flag f := by
  cases i with
  | busReset =>
    cases f with
    | busy | presence => exact Bool.noConfusion h
    | _ => rfl
  | searchReset =>
    cases f with
    | busy | ldf => exact Bool.noConfusion h
    | _ => rfl
  | crcRom =>
    cases f with
    | busy | crcOk => exact Bool.noConfusion h
    | _ => rfl
  | searchFirst | searchNext =>
    unfold commitRun
    cases f with
    | busy | presence | found | ldf => exact Bool.noConfusion h
    | _ => cases q.pass <;> rfl
  | writeBit | readBit | writeByte | readByte | select | crcClear | crcFeed =>
    cases f with
    | busy => exact Bool.noConfusion h
    | _ => rfl

end Sys2Proof.Machine

open Sys2Proof.Machine in
/-- Settles O49: the slots before the commit change no register, and the commit those of the matrix alone. -/
theorem writeMatrix : Obligations.WriteMatrix := by
  intro i s t h
  obtain ⟨u, q, hu, rfl⟩ := exec_commits h
  exact ⟨fun r hr => (commitRun_regValue hr u q).trans (hu.regValue r),
    fun f hf => (commitRun_flag hf u q).trans (hu.flag f), exec_sameHostSide h⟩
end

section
/-! SUPPORT. What the host alone writes: OVR, ILL and MATCH (R22, R29, R30), and what makes the block busy (R23). -/

namespace Sys2Proof.Machine

/-- The fields the sequencer never writes are as they were. -/
def HostFieldsKept (s t : State) : Prop := t.ovr = s.ovr ∧ t.ill = s.ill ∧ t.matchAddr = s.matchAddr

theorem OnlyBus.hostFieldsKept {s t : State} (h : OnlyBus s t) : HostFieldsKept s t :=
  ⟨h.flag .ovr, h.flag .ill, h.matchAddr⟩

theorem HostFieldsKept.trans {s t u : State} (h : HostFieldsKept s t) (k : HostFieldsKept t u) :
    HostFieldsKept s u := by
  obtain ⟨ho, hi, hm⟩ := h
  obtain ⟨ko, ki, km⟩ := k
  exact ⟨ko.trans ho, ki.trans hi, km.trans hm⟩

theorem commitRun_hostFieldsKept (i : Instr) (s : State) (q : Run) : HostFieldsKept s (commitRun i s q) := by
  cases i with
  | searchFirst | searchNext =>
    unfold commitRun
    cases q.pass <;> exact ⟨rfl, rfl, rfl⟩
  | _ => exact ⟨rfl, rfl, rfl⟩

theorem exec_hostFieldsKept {i : Instr} {s t : State} (h : exec i s = .next t) : HostFieldsKept s t := by
  obtain ⟨u, q, hu, rfl⟩ := exec_commits h
  exact hu.hostFieldsKept.trans (commitRun_hostFieldsKept i u q)

theorem tick_hostFieldsKept (s : State) : HostFieldsKept s (tick s) := by
  rcases tick_cases s with hu | ⟨-, u, i, q, hu, hc | hc⟩
  · exact hu.hostFieldsKept
  · exact hc ▸ hu.hostFieldsKept.trans (commitRun_hostFieldsKept i u q)
  · exact hc ▸ hu.hostFieldsKept

theorem sequencerTurn_hostFieldsKept {s t : State} {rest : List HostEvent} (h : sequencerTurn s rest = .next t) :
    HostFieldsKept s t := by
  rcases sequencerTurn_cases h with ⟨-, rfl⟩ | ⟨r, i, -, -, ⟨-, he⟩ | ⟨-, rfl⟩⟩
  · exact ⟨rfl, rfl, rfl⟩
  · exact exec_hostFieldsKept (s := { s with host := rest }) he
  · exact tick_hostFieldsKept s

/-- A step that is neither a host write nor block reset leaves the host's fields alone (R22, R29, R30). -/
theorem step_keeps_or_writes {s t : State} (h : step s = .next t) :
    ((∀ a v rest, s.host ≠ .write a v :: rest) ∧ (∀ rest, s.host ≠ .rst :: rest) ∧ HostFieldsKept s t) ∨
    (∃ u rest, s.host = .rst :: rest ∧ t = assertReset u) ∨
    (∃ u off v rest, s.host = .write (s.cfg.base + off) v :: rest ∧ HostFieldsKept s u ∧ u.busy = s.busy ∧
      t = hostWrite u off v) := by
  rcases step_cases h with ⟨hh, h⟩ | ⟨rest, hh, h⟩ | ⟨rest, hh, rfl⟩ | ⟨rest, hh, rfl⟩ | ⟨off, v, rest, hh, -, rfl⟩ |
    ⟨off, rest, hh, -, rfl⟩
  · exact .inl ⟨by simp [hh], by simp [hh], sequencerTurn_hostFieldsKept h⟩
  · exact .inl ⟨by simp [hh], by simp [hh], sequencerTurn_hostFieldsKept h⟩
  · exact .inl ⟨by simp [hh], by simp [hh], tick_hostFieldsKept { s with host := rest }⟩
  · exact .inr (.inl ⟨_, rest, hh, rfl⟩)
  · exact .inr (.inr ⟨{ s with host := rest }, off, v, rest, hh, ⟨rfl, rfl, rfl⟩, rfl, rfl⟩)
  · exact .inl ⟨by simp [hh], by simp [hh], ⟨rfl, rfl, rfl⟩⟩

theorem assertReset_flag (s : State) (f : Flag) : (assertReset s).flag f = false := by
  rcases assertReset_cases s with ⟨-, h⟩ | ⟨d, -, h⟩ <;> rw [h] <;> cases f <;> rfl

-- What a host write does to these fields (R70, R71, R93)

theorem storeIfIdle_ovr {s u : State} (hu : u.ovr = s.ovr) : (s.storeIfIdle u).ovr = (s.busy || s.ovr) := by
  cases hb : s.busy with
  | true => rw [storeIfIdle_of_busy hb]; rfl
  | false => rw [storeIfIdle_of_idle hb, hu]; rfl

theorem storeIfIdle_ill {s u : State} (hu : u.ill = s.ill) : (s.storeIfIdle u).ill = s.ill := by
  cases hb : s.busy with
  | true => rw [storeIfIdle_of_busy hb]
  | false => rw [storeIfIdle_of_idle hb, hu]

theorem writeCmd_ovr (s : State) (v : Byte) : (s.writeCmd v).ovr = (s.busy || s.ovr) := by
  cases hb : s.busy with
  | true => rw [writeCmd_of_busy hb]; rfl
  | false =>
    cases hv : decode v with
    | illegal => rw [writeCmd_of_illegal hb hv]; rfl
    | command i => rw [writeCmd_of_command hb hv]; rfl

theorem writeCmd_ill (s : State) (v : Byte) :
    (s.writeCmd v).ill = (s.ill || (!s.busy && decide (decode v = .illegal))) := by
  cases hb : s.busy with
  | true => simp [writeCmd_of_busy hb]
  | false =>
    cases hv : decode v with
    | illegal => simp [writeCmd_of_illegal hb hv]
    | command i => simp [writeCmd_of_command hb hv, State.accept]

theorem writeCmd_matchAddr (s : State) (v : Byte) : (s.writeCmd v).matchAddr = s.matchAddr := by
  cases hb : s.busy with
  | true => rw [writeCmd_of_busy hb]
  | false =>
    cases hv : decode v with
    | illegal => rw [writeCmd_of_illegal hb hv]
    | command i => rw [writeCmd_of_command hb hv]; rfl

theorem rejectedWhileBusy_match (i : Fin 8) : rejectedWhileBusy (0x10 + i.val) = true := by
  simp [rejectedWhileBusy]
  omega

/-- OVR after a host write (R29, R31, R70). -/
theorem hostWrite_ovr (s : State) (off : Nat) (v : Byte) :
    (hostWrite s off v).ovr = true ↔
      (s.busy = true ∧ rejectedWhileBusy off = true) ∨ (s.ovr = true ∧ ¬(off = 0x01 ∧ v.getLsbD 5 = true)) := by
  rcases hostWrite_cases s off v with ⟨rfl, h⟩ | ⟨rfl, h⟩ | ⟨rfl, h⟩ | ⟨i, rfl, h⟩ | ⟨ho, h⟩
  · simp [h, writeCmd_ovr, rejectedWhileBusy]
  · simp [h, rejectedWhileBusy, bitOf]
  · simp [h, storeIfIdle_ovr, rejectedWhileBusy]
  · have hstore : (hostWrite s (0x10 + i.val) v).ovr = (s.busy || s.ovr) := by rw [h]; exact storeIfIdle_ovr rfl
    have hne : 0x10 + i.val ≠ 0x01 := by omega
    simp [hstore, rejectedWhileBusy_match, hne]
  · have hrej : rejectedWhileBusy off = false := by simp [rejectedWhileBusy]; omega
    have hne : off ≠ 0x01 := by omega
    simp [h, hrej, hne]

/-- ILL after a host write (R30, R31, R93). -/
theorem hostWrite_ill (s : State) (off : Nat) (v : Byte) :
    (hostWrite s off v).ill = true ↔
      (off = 0x00 ∧ s.busy = false ∧ decode v = .illegal) ∨ (s.ill = true ∧ ¬(off = 0x01 ∧ v.getLsbD 6 = true)) := by
  rcases hostWrite_cases s off v with ⟨rfl, h⟩ | ⟨rfl, h⟩ | ⟨rfl, h⟩ | ⟨i, rfl, h⟩ | ⟨ho, h⟩
  · simp [h, writeCmd_ill, or_comm]
  · simp [h, bitOf]
  · simp [h, storeIfIdle_ill]
  · have hstore : (hostWrite s (0x10 + i.val) v).ill = s.ill := by rw [h]; exact storeIfIdle_ill rfl
    have hne : 0x10 + i.val ≠ 0x01 := by omega
    simp [hstore, hne]
  · have h0 : off ≠ 0x00 := by omega
    have h1 : off ≠ 0x01 := by omega
    simp [h, h0, h1]

/-- A host write changes MATCH only as a store to it in IDLE (R22, R71). -/
theorem hostWrite_matchAddr {s : State} {off : Nat} {v : Byte} (h : (hostWrite s off v).matchAddr ≠ s.matchAddr) :
    s.busy = false ∧ ∃ k : Fin 8, off = 0x10 + k.val := by
  cases hb : s.busy with
  | true =>
    refine absurd ?_ h
    rcases hostWrite_cases s off v with ⟨-, he⟩ | ⟨-, he⟩ | ⟨-, he⟩ | ⟨i, -, he⟩ | ⟨-, he⟩ <;> rw [he]
    · exact writeCmd_matchAddr s v
    · rfl
    · rw [storeIfIdle_of_busy hb]
    · rw [storeIfIdle_of_busy hb]
  | false =>
    refine ⟨rfl, ?_⟩
    rcases hostWrite_cases s off v with ⟨-, he⟩ | ⟨-, he⟩ | ⟨-, he⟩ | ⟨i, hi, -⟩ | ⟨-, he⟩
    · exact absurd (he ▸ writeCmd_matchAddr s v) h
    · exact absurd (he ▸ rfl) h
    · exact absurd (by rw [he, storeIfIdle_of_idle hb]) h
    · exact ⟨i, hi⟩
    · exact absurd (by rw [he]) h

theorem busy_congr {s t : State} (h : t.phase = s.phase) : t.busy = s.busy := by simp only [State.busy, h]

theorem storeIfIdle_phase {s u : State} (hu : u.phase = s.phase) : (s.storeIfIdle u).phase = s.phase := by
  cases hb : s.busy with
  | true => rw [storeIfIdle_of_busy hb]
  | false => rw [storeIfIdle_of_idle hb, hu]

/-- Only a write to CMD can move the sequencer (R71). -/
theorem hostWrite_phase (s : State) {off : Nat} (h : off ≠ 0x00) (v : Byte) : (hostWrite s off v).phase = s.phase := by
  rcases hostWrite_cases s off v with ⟨h0, -⟩ | ⟨-, he⟩ | ⟨-, he⟩ | ⟨i, -, he⟩ | ⟨-, he⟩
  · exact absurd h0 h
  · rw [he]; rfl
  · rw [he]; exact storeIfIdle_phase rfl
  · rw [he]; exact storeIfIdle_phase rfl
  · rw [he]

/-- In IDLE a write to CMD starts a command exactly if it is a command's code (R23, R93). -/
theorem writeCmd_busy_of_idle {s : State} (hb : s.busy = false) (v : Byte) :
    (s.writeCmd v).busy = true ↔ ∃ i, v = encode i := by
  simp only [← decode_eq_command_iff]
  cases hv : decode v with
  | illegal =>
    have hkept : (s.writeCmd v).busy = s.busy := by rw [writeCmd_of_illegal hb hv]; exact busy_congr rfl
    simp [hkept, hb]
  | command i => simp [writeCmd_of_command hb hv]

/-- In IDLE a host write starts a command exactly if it writes a command's code to CMD (R23, R71). -/
theorem hostWrite_busy_of_idle {s : State} (hb : s.busy = false) (off : Nat) (v : Byte) :
    (hostWrite s off v).busy = true ↔ off = 0x00 ∧ ∃ i, v = encode i := by
  by_cases h0 : off = 0x00
  · subst h0
    have hcmd : hostWrite s 0x00 v = s.writeCmd v := rfl
    rw [hcmd, writeCmd_busy_of_idle hb, eq_self, true_and]
  · simp [busy_congr (hostWrite_phase s h0 v), hb, h0]

theorem assertReset_busy (s : State) : (assertReset s).busy = false := assertReset_flag s .busy

end Sys2Proof.Machine

open Sys2Proof.Machine in
/-- Settles O16: a write sets OVR or clears it, block reset clears it, and no other step touches it. -/
theorem ovrIsSticky : Obligations.OvrIsSticky := by
  intro s t h
  rcases step_keeps_or_writes h with ⟨hw, hr, hovr, -, -⟩ | ⟨u, rest, hh, rfl⟩ | ⟨u, off, v, rest, hh, hu, hb, rfl⟩
  · simp [hw, hr, hovr]
  · have hovr : (assertReset u).ovr = false := assertReset_flag u .ovr
    simp [hh, hovr]
  · obtain ⟨hovr, -, -⟩ := hu
    simp [hostWrite_ovr, hh, hb, hovr]

open Sys2Proof.Machine in
/-- Settles O17: a write sets ILL or clears it, block reset clears it, and no other step touches it. -/
theorem illIsSticky : Obligations.IllIsSticky := by
  intro s t h
  rcases step_keeps_or_writes h with ⟨hw, hr, -, hill, -⟩ | ⟨u, rest, hh, rfl⟩ | ⟨u, off, v, rest, hh, hu, hb, rfl⟩
  · simp [hw, hr, hill]
  · have hill : (assertReset u).ill = false := assertReset_flag u .ill
    simp [hh, hill]
  · obtain ⟨-, hill, -⟩ := hu
    simp [hostWrite_ill, hh, hb, hill]

open Sys2Proof.Machine in
/-- Settles O20: no step but a host write and block reset touches MATCH, and a host write only as a store in IDLE. -/
theorem onlyTheHostWritesMatch : Obligations.OnlyTheHostWritesMatch := by
  intro s t h hne
  rcases step_keeps_or_writes h with ⟨-, -, -, -, hmatch⟩ | ⟨u, rest, hh, -⟩ | ⟨u, off, v, rest, hh, hu, hb, rfl⟩
  · exact absurd hmatch hne
  · exact .inl ⟨rest, hh⟩
  · obtain ⟨-, -, hmatch⟩ := hu
    obtain ⟨hidle, k, rfl⟩ := hostWrite_matchAddr (hmatch ▸ hne)
    exact .inr ⟨hb ▸ hidle, k, v, rest, by rw [hh, Nat.add_assoc]⟩

open Sys2Proof Sys2Proof.Machine in
/-- Settles O18: in IDLE time, waits and reads leave the block idle, and of the writes an accepted one to CMD alone does
not. -/
theorem onlyCmdWritesStartCommands : Obligations.OnlyCmdWritesStartCommands := by
  intro s t h hb
  have hturn {rest : List HostEvent} (hs : sequencerTurn s rest = .next t) : t.busy = false := by
    rw [sequencerTurn_of_idle hb] at hs
    cases hs
    exact hb
  rcases step_cases h with ⟨hh, h⟩ | ⟨rest, hh, h⟩ | ⟨rest, hh, rfl⟩ | ⟨rest, hh, rfl⟩ | ⟨off, v, rest, hh, -, rfl⟩ |
    ⟨off, rest, hh, -, rfl⟩
  · simp [hh, hturn h]
  · simp [hh, hturn h]
  · have hidle : (tick { s with host := rest }).busy = false := by
      rw [tick_of_idle (s := { s with host := rest }) (State.busy_eq_false_iff.mp hb)]
      exact hb
    simp [hh, hidle]
  · simp [hh, assertReset_busy]
  · rw [hostWrite_busy_of_idle (s := { s with host := rest }) hb, hh]
    simp
  · have hidle : (State.afterRead { s with host := rest } off).busy = false := hb
    simp [hh, hidle]
end

section
/-! SUPPORT. How a command comes to run (R23, R33, R36), and what the host reads and writes of STATUS (R24, R31, R37). -/

namespace Sys2Proof.Machine

-- A command that has been accepted

/-- A command not begun runs as one change of state (R36, log 4). -/
theorem sequencerTurn_of_notBegun {s : State} {r : Run} {i : Instr} (hp : s.phase = .run r)
    (hi : decode r.curCmd = .command i) (hr : r = startRun i s r.curCmd) (rest : List HostEvent) :
    sequencerTurn s rest = exec i { s with host := rest } := by
  have hb : notBegun i s r = true := decide_eq_true hr
  simp [sequencerTurn, hp, hi, hb]

theorem step_of_waiting {s : State} {rest : List HostEvent} (h : s.host = .wait :: rest ∨ (s.host = [] ∧ rest = [])) :
    step s = sequencerTurn s rest := by
  rcases h with hw | ⟨hn, rfl⟩
  · exact step_of_wait hw
  · exact step_of_nil hn

/-- A write in the window is the host write at its offset (R60, R71). -/
theorem step_of_write {s : State} {off : Nat} {v : Byte} {rest : List HostEvent} (ho : off < 32)
    (h : s.host = .write (s.cfg.base + off) v :: rest) : step s = .next (hostWrite { s with host := rest } off v) := by
  rw [step_of_cons h]
  exact stepEvent_write v (windowOffset_base_add s.cfg ho)

theorem step_of_read {s : State} {off : Nat} {rest : List HostEvent} (ho : off < 32)
    (h : s.host = .read (s.cfg.base + off) :: rest) : step s = .next (State.afterRead { s with host := rest } off) := by
  rw [step_of_cons h]
  exact stepEvent_read (windowOffset_base_add s.cfg ho)

/-- Acceptance does not change what the start of a command reads (R71). -/
theorem startRun_accept (i j : Instr) (s : State) (v w : Byte) : startRun i (s.accept j w) v = startRun i s v := by
  have hpass : startPass i (s.accept j w) = startPass i s := by cases i <;> rfl
  simp only [startRun, hpass]
  rw [currentSlot_congr (s := s) (t := s.accept j w) i _ rfl rfl rfl]
  rfl

-- STATUS (R24)

/-- The bits of a STATUS byte are its fields (R24). -/
theorem bitOf_statusByte (busy presence found ldf crcOk ovr ill : Bool) :
    let v := statusByte busy presence found ldf crcOk ovr ill
    bitOf v 0 = busy ∧ bitOf v 1 = presence ∧ bitOf v 2 = found ∧ bitOf v 3 = ldf ∧ bitOf v 4 = crcOk ∧
      bitOf v 5 = ovr ∧ bitOf v 6 = ill ∧ bitOf v 7 = false := by
  have hzero : bitOf 0#8 7 = false := rfl
  simp [statusByte, bitOf_setBit, hzero]

-- What a host read returns (R37, R72)

theorem readReg_of_busy {s : State} (hb : s.busy = true) (any : Byte) {r : Reg} (hr : r ≠ .status) :
    s.readReg any r = if hiddenWhileBusy r then any else s.regValue r := by
  cases r with
  | status => exact absurd rfl hr
  | _ => simp [State.readReg, hb]

theorem readReg_status_of_busy {s : State} (hb : s.busy = true) (any : Byte) :
    s.readReg any .status = s.statusWhileBusy any := by
  simp [State.readReg, hb]

/-- A register that is not hidden reads exactly at all times, STATUS apart (R37). -/
theorem readReg_of_exact (s : State) (any : Byte) {r : Reg} (hr : r ≠ .status) (hh : hiddenWhileBusy r = false) :
    s.readReg any r = s.regValue r := by
  cases hb : s.busy with
  | true => simp [readReg_of_busy hb any hr, hh]
  | false => exact readReg_of_idle hb any r

/-- BUSY, OVR, ILL and bit 7 of STATUS read exactly at all times (R37). -/
theorem readReg_status_exact (s : State) (any : Byte) :
    bitOf (s.readReg any .status) 0 = s.busy ∧ bitOf (s.readReg any .status) 5 = s.ovr ∧
      bitOf (s.readReg any .status) 6 = s.ill ∧ bitOf (s.readReg any .status) 7 = false := by
  cases hb : s.busy with
  | true =>
    obtain ⟨h0, -, -, -, -, h5, h6, h7⟩ :=
      bitOf_statusByte true (bitOf any 1) (bitOf any 2) (bitOf any 3) (bitOf any 4) s.ovr s.ill
    rw [readReg_status_of_busy hb]
    exact ⟨h0, h5, h6, h7⟩
  | false =>
    obtain ⟨h0, -, -, -, -, h5, h6, h7⟩ := bitOf_statusByte s.busy s.presence s.found s.ldf s.crcOk s.ovr s.ill
    rw [readReg_of_idle hb]
    exact ⟨h0.trans hb, h5, h6, h7⟩

/-- While BUSY = 1, bits 1 to 4 of STATUS are of any value (R37). -/
theorem statusWhileBusy_hidden (s : State) (any : Byte) {k : Nat} (h1 : 1 ≤ k) (h4 : k ≤ 4) :
    bitOf (s.statusWhileBusy any) k = bitOf any k := by
  obtain ⟨-, b1, b2, b3, b4, -⟩ :=
    bitOf_statusByte true (bitOf any 1) (bitOf any 2) (bitOf any 3) (bitOf any 4) s.ovr s.ill
  interval_cases k
  · exact b1
  · exact b2
  · exact b3
  · exact b4

/-- The offsets of the registers whose reads are hidden while BUSY = 1 (R37, R61). -/
theorem regAt_hidden {off : Nat} (h : (0x02 ≤ off ∧ off ≤ 0x06) ∨ (0x08 ≤ off ∧ off ≤ 0x0F)) :
    ∃ r, regAt off = some r ∧ r ≠ .status ∧ hiddenWhileBusy r = true := by
  rcases h with ⟨hl, hu⟩ | ⟨hl, hu⟩ <;> interval_cases off <;> exact ⟨_, rfl, Reg.noConfusion, rfl⟩

theorem hostRead_hidden {s : State} (hb : s.busy = true) {off : Nat}
    (h : (0x02 ≤ off ∧ off ≤ 0x06) ∨ (0x08 ≤ off ∧ off ≤ 0x0F)) : hostRead s off = Config.freeByte s.readDraws := by
  obtain ⟨r, hr, hne, hhid⟩ := regAt_hidden h
  simp only [hostRead, hr, readReg_of_busy hb _ hne, hhid, if_true]

theorem hostRead_match (s : State) (k : Fin 8) : hostRead s (0x10 + k.val) = addrByte s.matchAddr k :=
  (hostRead_of_reg s (.mtch k)).trans (readReg_of_exact s _ Reg.noConfusion rfl)

theorem hostRead_cmd (s : State) : hostRead s 0x00 = 0x00 := readReg_of_exact s _ (r := .cmd) Reg.noConfusion rfl

theorem regValue_reset (r : Reg) : State.reset.regValue r = 0x00 := by
  cases r with
  | rom i => exact addrByte_zero i
  | mtch i => exact addrByte_zero i
  | _ => rfl

theorem flag_reset (f : Flag) : State.reset.flag f = false := by cases f <;> rfl

end Sys2Proof.Machine

open Sys2Proof.Machine in
/-- Settles O3: the record stands as acceptance left it, so that the sequencer's turn is the meaning of the command. -/
theorem stepRunsAcceptedCommand : Obligations.StepRunsAcceptedCommand := by
  intro s r i rest hp hi hr hh
  rw [step_of_waiting hh, sequencerTurn_of_notBegun hp hi hr]

open Sys2Proof Sys2Proof.Machine in
/-- Settles O4: the write accepts the command, and the wait finds it not begun. -/
theorem legalCmdWriteStartsAndRuns : Obligations.LegalCmdWriteStartsAndRuns := by
  intro s i rest hb hh
  have hstep : step s = .next (State.accept { s with host := .wait :: rest } i (encode i)) := by
    rw [step_of_write (off := 0x00) (by decide) hh]
    exact congrArg _ (writeCmd_of_command (s := { s with host := .wait :: rest }) hb (decode_encode i))
  refine ⟨_, _, hstep, rfl, rfl, rfl, rfl, rfl, rfl, ?_⟩
  rw [step_of_wait rfl]
  exact sequencerTurn_of_notBegun rfl (decode_encode i) (startRun_accept i i _ _ _).symm rest

open Sys2Proof.Machine in
/-- Settles O8: the write clears the two sticky flags where its bits are 1, and STATUS has no bit 7. -/
theorem statusWriteClearsOnlyStickyFlags : Obligations.StatusWriteClearsOnlyStickyFlags := by
  intro s v rest hh
  obtain ⟨-, -, -, -, -, -, -, h7⟩ := bitOf_statusByte s.busy s.presence s.found s.ldf s.crcOk
    (s.ovr && !bitOf v 5) (s.ill && !bitOf v 6)
  exact ⟨_, step_of_write (by decide) hh, rfl, rfl, rfl, h7⟩

open Sys2Proof Sys2Proof.Machine in
/-- Settles O12: the read goes by the register at its offset, hidden or exact (R37). -/
theorem busyReadsHideOnlyResults : Obligations.BusyReadsHideOnlyResults := by
  intro s off rest ho hh
  refine ⟨hostRead { s with host := rest } off, step_of_read ho hh, ?_, ?_, ?_, fun hb => ⟨?_, ?_⟩⟩
  · rintro rfl
    exact hostRead_cmd _
  · rintro rfl
    exact readReg_status_exact _ _
  · rintro k rfl
    exact hostRead_match _ k
  · rintro rfl k h1 h4
    have hread := readReg_status_of_busy (s := { s with host := rest }) hb (Config.freeByte s.readDraws)
    exact (congrArg (bitOf · k) hread).trans (statusWhileBusy_hidden _ _ h1 h4)
  · exact hostRead_hidden hb

open Sys2Proof.Machine in
/-- Settles O15: STATUS is built bit by bit from its fields, and BUSY from the phase. -/
theorem statusBits : Obligations.StatusBits := by
  intro s
  obtain ⟨h0, h1, h2, h3, h4, h5, h6, h7⟩ := bitOf_statusByte s.busy s.presence s.found s.ldf s.crcOk s.ovr s.ill
  exact ⟨h0, h1, h2, h3, h4, h5, h6, h7, State.busy_eq_true_iff⟩

open Sys2Proof.Machine in
/-- Settles O57: register by register and field by field (R45). -/
theorem resetValues : Obligations.ResetValues := ⟨regValue_reset, flag_reset, rfl, rfl, rfl⟩
end

section
/-! SUPPORT. One-byte host accesses (20_memory.md): where an access goes (R60, R62), what a write at each kind of offset
does (R70, R71), and all that an access can change while BUSY = 1 (R69, R70). -/

namespace Sys2Proof.Machine

-- Outside the window (R60, log 11)

theorem stepEvent_write_outside {s : State} {addr : Nat} (v : Byte) (h : windowOffset s.cfg addr = none) :
    stepEvent (.write addr v) s = .fault .addressOutsideWindow := by simp [stepEvent, h]

theorem stepEvent_read_outside {s : State} {addr : Nat} (h : windowOffset s.cfg addr = none) :
    stepEvent (.read addr) s = .fault .addressOutsideWindow := by simp [stepEvent, h]

-- Reserved and read-only offsets (R62)

theorem regAt_eq_none_of_reserved {off : Nat} (h : off = 0x07 ∨ 0x18 ≤ off) : regAt off = none := by
  unfold regAt
  split
  case h_24 => rfl
  all_goals omega

theorem hostRead_of_reserved (s : State) {off : Nat} (h : off = 0x07 ∨ 0x18 ≤ off) : hostRead s off = 0x00 := by
  simp only [hostRead, regAt_eq_none_of_reserved h]

theorem hostWrite_of_reserved_or_readOnly (s : State) {off : Nat} (v : Byte)
    (h : (0x03 ≤ off ∧ off ≤ 0x0F) ∨ 0x18 ≤ off) : hostWrite s off v = s := by
  rcases hostWrite_cases s off v with ⟨ho, -⟩ | ⟨ho, -⟩ | ⟨ho, -⟩ | ⟨i, ho, -⟩ | ⟨-, hw⟩
  case inr.inr.inr.inr => exact hw
  all_goals omega

-- Stores (R70, R71)

theorem hostWrite_data_of_idle {s : State} (hb : s.busy = false) (v : Byte) :
    hostWrite s 0x02 v = { s with data := v } := storeIfIdle_of_idle hb _

theorem hostWrite_match_of_idle {s : State} (hb : s.busy = false) (k : Fin 8) (v : Byte) :
    hostWrite s (0x10 + k.val) v = { s with matchAddr := s.matchAddr.set k v } := by
  have hreg : regAt (0x10 + k.val) = some (.mtch k) := regAt_offsetOf (.mtch k)
  simp only [hostWrite, hreg, storeIfIdle_of_idle hb]

/-- A stored byte of an address reads back, and no other byte changes (R64). -/
theorem addrByte_set (a : Address) (k j : Fin 8) (v : Byte) :
    addrByte (a.set k v) j = if j = k then v else addrByte a j := by
  rw [addrByte_eq_getElem _ j.isLt, addrByte_eq_getElem _ j.isLt, Vector.getElem_set]
  simp only [Fin.ext_iff, eq_comm]

/-- While BUSY = 1 a write to DATA, MATCH or CMD is recorded in OVR, and that is all (R70). -/
theorem hostWrite_of_rejected {s : State} (hb : s.busy = true) {off : Nat} (v : Byte)
    (h : off = 0x00 ∨ off = 0x02 ∨ (0x10 ≤ off ∧ off < 0x18)) : hostWrite s off v = { s with ovr := true } := by
  rcases hostWrite_cases s off v with ⟨-, hw⟩ | ⟨ho, -⟩ | ⟨-, hw⟩ | ⟨i, -, hw⟩ | ⟨ho, -⟩
  · exact hw.trans (writeCmd_of_busy hb v)
  · omega
  · exact hw.trans (storeIfIdle_of_busy hb _)
  · exact hw.trans (storeIfIdle_of_busy hb _)
  · omega

-- All that an access can change while BUSY = 1 (R69, R70)

/-- t is s but for the host's side and the two sticky flags. -/
def OnlyHostAndSticky (s t : State) : Prop :=
  t = { s with host := t.host, reads := t.reads, readDraws := t.readDraws, ovr := t.ovr, ill := t.ill }

theorem OnlyHostAndSticky.regValue {s t : State} (h : OnlyHostAndSticky s t) {r : Reg} (hr : r ≠ .status) :
    t.regValue r = s.regValue r := by
  rw [h]
  cases r with
  | status => exact absurd rfl hr
  | _ => rfl

theorem OnlyHostAndSticky.sameFlags {s t : State} (h : OnlyHostAndSticky s t) : SameFlagsExcept [.ovr, .ill] s t := by
  intro f _ hf
  rw [h]
  cases f with
  | ovr | ill => simp at hf
  | _ => rfl

theorem hostWrite_onlyHostAndSticky {s : State} (hb : s.busy = true) (off : Nat) (v : Byte) :
    OnlyHostAndSticky s (hostWrite s off v) := by
  rcases hostWrite_cases s off v with ⟨-, hw⟩ | ⟨-, hw⟩ | ⟨-, hw⟩ | ⟨i, -, hw⟩ | ⟨-, hw⟩ <;> rw [hw]
  · rw [writeCmd_of_busy hb]; rfl
  · rfl
  · rw [storeIfIdle_of_busy hb]; rfl
  · rw [storeIfIdle_of_busy hb]; rfl
  · rfl

/-- A one-byte access that does not stop the machine is a host write or a host read in the window (R60). -/
theorem stepEvent_access_onlyHostAndSticky {s t : State} {e : HostEvent} (hb : s.busy = true)
    (he : (∃ a v, e = .write a v) ∨ ∃ a, e = .read a) (h : stepEvent e s = .next t) : OnlyHostAndSticky s t := by
  rcases he with ⟨a, v, rfl⟩ | ⟨a, rfl⟩
  · cases ho : windowOffset s.cfg a with
    | none => cases (stepEvent_write_outside v ho).symm.trans h
    | some off =>
      cases (stepEvent_write v ho).symm.trans h
      exact hostWrite_onlyHostAndSticky hb off v
  · cases ho : windowOffset s.cfg a with
    | none => cases (stepEvent_read_outside ho).symm.trans h
    | some off =>
      cases (stepEvent_read ho).symm.trans h
      rfl

end Sys2Proof.Machine

open Sys2Proof.Machine in
/-- Settles O19: while BUSY = 1 an access touches the host's side, OVR and ILL alone. -/
theorem hostAccessNeverDisturbsARunningCommand : Obligations.HostAccessNeverDisturbsARunningCommand := by
  intro s t e rest hb hh he h
  rw [step_of_cons hh] at h
  have ht : OnlyHostAndSticky s t := stepEvent_access_onlyHostAndSticky (s := { s with host := rest }) hb he h
  refine ⟨?_, ?_, ?_, ?_, ?_, ?_, fun r hr => ht.regValue hr, ht.sameFlags⟩ <;> rw [ht]

open Sys2Proof.Machine in
/-- Settles O7: each of the ten offsets leads to a write that looks at BUSY first. -/
theorem busyWriteIsIgnoredAndSetsOvr : Obligations.BusyWriteIsIgnoredAndSetsOvr := by
  intro s off v rest hb ho hh
  rw [step_of_write (by omega) hh]
  exact congrArg _ (hostWrite_of_rejected (s := { s with host := rest }) hb v ho)

open Sys2Proof.Machine in
/-- Settles O9: the register map has no register at a reserved offset, and no write goes to a read-only one. -/
theorem reservedAndReadOnlyOffsets : Obligations.ReservedAndReadOnlyOffsets := by
  refine fun s off v rest => ⟨fun ho hh => ?_, fun ho hh => ?_⟩
  · rw [step_of_read (by omega) hh, afterRead_eq, hostRead_of_reserved _ (by omega)]
  · rw [step_of_write (by omega) hh, hostWrite_of_reserved_or_readOnly _ v (by omega)]

open Sys2Proof.Machine in
/-- Settles O10: in IDLE the store takes place. -/
theorem idleWriteStores : Obligations.IdleWriteStores := by
  refine fun s v rest hb => ⟨fun hh => ?_, fun k hh => ?_⟩
  · rw [step_of_write (by decide) hh]
    exact congrArg _ (hostWrite_data_of_idle (s := { s with host := rest }) hb v)
  · rw [Nat.add_assoc] at hh
    have hstore := hostWrite_match_of_idle (s := { s with host := rest }) hb k v
    exact ⟨_, (step_of_write (by omega) hh).trans (congrArg _ hstore), rfl,
      fun j => addrByte_set s.matchAddr k j v⟩

open Sys2Proof.Machine in
/-- Settles O11: the register map is one to one, and in IDLE every register reads exactly. -/
theorem idleReadReturnsTheRegister : Obligations.IdleReadReturnsTheRegister := by
  intro s r off rest hb ho hh
  have hoff : off = offsetOf r := by cases r <;> exact ho
  subst hoff
  have hread : hostRead { s with host := rest } (offsetOf r) = s.regValue r := by
    rw [hostRead_of_reg, readReg_of_idle (s := { s with host := rest }) hb]
    cases r <;> rfl
  rw [step_of_read (Nat.lt_trans (offsetOf_lt r) (by decide)) hh, afterRead_eq, hread]

open Sys2Proof.Machine in
/-- Settles O13: a wide access is an event of its own, which the step refuses whatever its address. -/
theorem wideAccessIsRefused : Obligations.WideAccessIsRefused := by
  intro s addr width rest _ hh
  rw [step_of_cons hh, stepEvent_wide]

open Sys2Proof.Machine in
/-- Settles O14: such an address has no offset in the window. -/
theorem accessOutsideTheWindowStops : Obligations.AccessOutsideTheWindowStops := by
  intro s addr v rest ha hh
  have ho : windowOffset s.cfg addr = none := windowOffset_eq_none.mpr ha
  rcases hh with hw | hr
  · rw [step_of_cons hw]
    exact stepEvent_write_outside v ho
  · rw [step_of_cons hr]
    exact stepEvent_read_outside ho
end

section
/-! SUPPORT. The opcode map (30_encoding.md): which bytes are the codes of commands (R91), and which are illegal (R93). -/

namespace Sys2Proof.Machine

/-- The codes of the map are 0x01 to 0x0C (R91). -/
theorem encode_toNat_bounds (i : Instr) : 0x01 ≤ (encode i).toNat ∧ (encode i).toNat ≤ 0x0C := by
  cases i <;> decide

/-- A byte is illegal exactly if it is the code of no command (R94). -/
theorem decode_eq_illegal_iff {v : Byte} : decode v = .illegal ↔ ∀ i : Instr, v ≠ encode i := by
  cases hv : decode v with
  | illegal =>
    refine iff_of_true rfl fun i he => ?_
    cases hv.symm.trans (decode_eq_command_iff.mpr he)
  | command i => exact iff_of_false Decoded.noConfusion fun h => h i (decode_eq_command_iff.mp hv)

/-- A byte outside 0x01 to 0x0C is illegal (R93). -/
theorem decode_of_outside_map {v : Byte} (h : v = 0x00 ∨ 0x0D ≤ v.toNat) : decode v = .illegal := by
  refine decode_eq_illegal_iff.mpr fun i he => ?_
  obtain ⟨hlow, hhigh⟩ := encode_toNat_bounds i
  rcases h with h0 | hbig
  · rw [← he, h0] at hlow
    exact absurd hlow (by decide)
  · rw [he] at hbig
    omega

end Sys2Proof.Machine

open Sys2Proof.Machine in
/-- Settles O1: each row is a command's own code, and a byte outside the rows is the code of no command. -/
theorem opcodeMapDecodes : Obligations.OpcodeMapDecodes :=
  ⟨decode_encode .busReset, decode_encode .writeBit, decode_encode .readBit, decode_encode .writeByte,
    decode_encode .readByte, decode_encode .searchReset, decode_encode .searchFirst, decode_encode .searchNext,
    decode_encode .select, decode_encode .crcClear, decode_encode .crcFeed, decode_encode .crcRom,
    fun _ => decode_of_outside_map⟩

open Sys2Proof.Machine in
/-- Settles O2: the two halves are the decoder's two laws. -/
theorem decodeAndEncodeAgree : Obligations.DecodeAndEncodeAgree :=
  ⟨fun _ _ => decode_eq_command_iff, fun _ => decode_eq_illegal_iff⟩

open Sys2Proof.Machine in
/-- Settles O6: the write to CMD looks at BUSY before the code (R233). -/
theorem illegalCodeSetsIll : Obligations.IllegalCodeSetsIll := by
  intro s v rest hv hh
  have hstep : step s = .next (State.writeCmd { s with host := rest } v) := step_of_write (off := 0x00) (by decide) hh
  refine ⟨fun hb => ?_, fun hb => ?_⟩
  · exact hstep.trans (congrArg _ (writeCmd_of_illegal (s := { s with host := rest }) hb (decode_of_outside_map hv)))
  · exact hstep.trans (congrArg _ (writeCmd_of_busy (s := { s with host := rest }) hb v))
end

section
/-! SUPPORT. What the block drives on the line in each tick of a command (R112 to R116, R119). -/

namespace Sys2Proof.Machine

theorem driveLow_of_waiting {r : Run} (hw : r.waitLeft ≠ 0) (i : Instr) (s : State) : r.driveLow i s = false :=
  if_pos hw

theorem driveLow_of_no_slot {i : Instr} {s : State} {r : Run} (hk : currentSlot i s r = none) :
    r.driveLow i s = false := by
  simp [Run.driveLow, hk]

theorem driveLow_of_slot {i : Instr} {s : State} {r : Run} {kind : SlotKind} (hw : r.waitLeft = 0)
    (hk : currentSlot i s r = some kind) : r.driveLow i s = driveLowAt s.cfg kind r.tickCount := by
  simp [Run.driveLow, hw, hk]

@[simp] theorem accept_now (s : State) (i : Instr) (v : Byte) : (s.accept i v).now = s.now := rfl

-- The slots

/-- A released line has the level the devices give it (R110). -/
theorem lineLevel_of_released (pulls : Bool) : lineLevel false pulls = !pulls := rfl

/-- After `T_START` an accepted command stands at its first slot (R119). -/
theorem ticks_tStart {i : Instr} {s : State} {kind : SlotKind} (hk : currentSlot i s (firstRun i s) = some kind) :
    ticks s.cfg.tStart (s.accept i (encode i)) = s.startDelay.standAt i (firstRun i s) := by
  obtain ⟨n, hn, hnow, -⟩ := runsTo_firstSlot hk
  have h : n = s.cfg.tStart := (Nat.add_left_cancel (hnow : s.now + s.cfg.tStart = s.now + n)).symm
  rwa [h] at hn

/-- In tick k of the first slot of a command the line is driven as the kind of the slot says (R114 to R116). -/
theorem owDriveLow_inFirstSlot {i : Instr} {s : State} {kind : SlotKind} (hv : s.cfg.Valid)
    (hk : currentSlot i s (firstRun i s) = some kind) {k : Nat} (ht : k < slotTicks s.cfg kind) :
    (ticks (s.cfg.tStart + k) (s.accept i (encode i))).owDriveLow = driveLowAt s.cfg kind k := by
  have hslot : currentSlot i s.startDelay (firstRun i s) = some kind :=
    (currentSlot_congr (s := s) i _ rfl rfl rfl).trans hk
  have hu := onlyBus_inSlot kind k s.startDelay
  rw [ticks_add, ticks_tStart hk, ticks_inSlot (s := s.startDelay) hv (firstRun_atStart i s) hslot k ht,
    State.standAt_owDriveLow, driveLow_congr (s := s.startDelay) i _ hu.cfg hu.data hu.matchAddr]
  exact driveLow_of_slot rfl ((currentSlot_congr_run i _ rfl rfl).trans hslot)

-- T_START, and the commands that have none

/-- In `T_START` each tick only makes the ticks still to wait fewer (R119). -/
theorem ticks_waiting {i : Instr} {r : Run} (hi : decode r.curCmd = .command i) (w k : Nat) (s : State) :
    ticks k (s.standAt i { r with waitLeft := w + k }) = (s.elapse k).standAt i { r with waitLeft := w } := by
  induction k generalizing s with
  | zero => rfl
  | succ k ih =>
    have hstep : tick (s.standAt i { r with waitLeft := w + (k + 1) }) =
        (s.elapse 1).standAt i { r with waitLeft := w + k } := by
      rw [tick_standAt s (by exact hi)]
      rfl
    rw [ticks_succ, hstep, ih, elapse_elapse, Nat.add_comm 1 k]

theorem released_in_tStart {i : Instr} {s : State} {kind : SlotKind}
    (hk : currentSlot i s (firstRun i s) = some kind) {k : Nat} (ht : k < s.cfg.tStart) :
    (ticks k (s.accept i (encode i))).owDriveLow = false := by
  obtain ⟨w, hw⟩ : ∃ w, s.cfg.tStart = w + k := ⟨s.cfg.tStart - k, by omega⟩
  unfold State.accept
  rw [startRun_of_slot hk, hw, ticks_waiting (r := firstRun i s) (decode_encode i)]
  exact driveLow_of_waiting (by dsimp only; omega) i _

/-- In IDLE the line stays released (R44, R241). -/
theorem Committed.ticks {s : State} (h : Committed s) (k : Nat) : Committed (ticks k s) := by
  induction k generalizing s with
  | zero => exact h
  | succ k ih =>
    rw [ticks_succ, tick_of_idle h.1]
    exact ih h

/-- A command without a slot never drives the line, neither in `T_INT` nor after its commit (R36, R44). -/
theorem released_of_no_slot {i : Instr} {s : State} (hv : s.cfg.Valid) (hk : currentSlot i s (firstRun i s) = none)
    (k : Nat) : (ticks k (s.accept i (encode i))).owDriveLow = false := by
  rcases Nat.lt_or_ge k s.cfg.tInt with hlt | hge
  · unfold State.accept
    rw [startRun_of_no_slot hk, ticks_internal (firstRun_atStart i s) hk k hlt]
    exact driveLow_of_no_slot ((currentSlot_standing (onlyBus_elapse s k) i (firstRun i s) _ _).trans hk)
  · obtain ⟨n, hn, hnow, -⟩ := runsTo_internal hv hk
    rw [commitRun_now, State.internalDelay_now, accept_now, Nat.add_left_cancel_iff] at hnow
    obtain ⟨d, rfl⟩ := Nat.exists_eq_add_of_le (hnow ▸ hge)
    rw [ticks_add, hn]
    exact ((commitRun_committed i _ _).ticks d).2

end Sys2Proof.Machine

open Sys2Proof.Machine in
/-- Settles O54: each of the three commands has one slot, its first; a command waits `T_START` or has no slot at all. -/
theorem slotWaveforms : Obligations.SlotWaveforms := by
  intro s k hv
  refine ⟨fun hk => ?_, fun hk => ?_, fun hk => ?_, fun hk i => ?_⟩
  · exact owDriveLow_inFirstSlot (i := .busReset) (kind := .reset) hv rfl hk
  · exact owDriveLow_inFirstSlot (i := .writeBit) (kind := .write (bitOf s.data 0)) hv rfl hk
  · exact owDriveLow_inFirstSlot (i := .readBit) (kind := .read) hv rfl hk
  · cases hslot : currentSlot i s (firstRun i s) with
    | some kind => exact released_in_tStart hslot hk
    | none => exact released_of_no_slot hv hslot k

open Sys2Proof.Machine in
/-- Settles O55: the constraints of R7 put each sample instant after the low time and before the end of its slot. -/
theorem samplesAreTakenWithTheLineReleased : Obligations.SamplesAreTakenWithTheLineReleased := by
  intro c k t pulls hv ht
  obtain ⟨hpos, hle, hlow⟩ := sampleTick_bounds hv ht
  exact ⟨hlow, hpos, hle, hlow ▸ lineLevel_of_released pulls⟩
end

section
/-! SUPPORT. The reference population over a run of write slots: a ROM command byte and a match address (R125, R127). -/

namespace Sys2Proof.Machine

/-- The bits of an address in slot order are ROMbit(1) to ROMbit(64) (R66, R161). -/
theorem addrBits_eq_map_romBit (a : Address) : addrBits a = (List.range 64).map fun n => romBit a (n + 1) := rfl

theorem addrBits_injective : Function.Injective addrBits := by
  intro a b h
  rw [addrBits_eq_map_romBit, addrBits_eq_map_romBit, List.map_inj_left] at h
  refine address_ext_of_romBit fun n h1 h64 => ?_
  have hn := h (n - 1) (List.mem_range.mpr (by omega))
  rwa [Nat.sub_add_cancel h1] at hn

/-- A run of write slots is seen by the reference population bit by bit (R124). -/
theorem writeBits_bus_ref (bits : List Bool) {s : State} {b : RefBus} (h : s.bus = .ref b) :
    (writeBits bits s).bus = .ref (bits.foldl (RefBus.afterWrite s.cfg) b) := by
  induction bits generalizing s b with
  | nil => exact h
  | cons d bits ih =>
    have hd : (writeSlot d s).bus = .ref (b.afterWrite s.cfg d) := by rw [writeSlot_bus, h]; rfl
    exact ih hd

-- What a write slot does to a population that receives a ROM command byte or an address

theorem afterWrite_romCmd {b : RefBus} {xs : List Bool} (hm : b.mode = .romCmd xs) (c : OWCConfig) (d : Bool) :
    b.afterWrite c d =
      if xs.length + 1 = 8 then b.romCommand c (byteOfBits (xs ++ [d]))
      else { b with mode := .romCmd (xs ++ [d]) } := by
  simp only [RefBus.afterWrite, hm]

theorem afterWrite_matching {b : RefBus} {xs : List Bool} (hm : b.mode = .matching xs) (c : OWCConfig) (d : Bool) :
    b.afterWrite c d =
      if xs.length + 1 = 64 then
        { b with selected := b.devices.filter fun v => addrBits v.addr == xs ++ [d], mode := .function 0 }
      else { b with mode := .matching (xs ++ [d]) } := by
  simp only [RefBus.afterWrite, hm]

/-- The last bits of a ROM command byte, xs being those received before (R125). -/
theorem foldl_afterWrite_romCmd (c : OWCConfig) (bits : List Bool) {b : RefBus} {xs : List Bool}
    (hm : b.mode = .romCmd xs) (hlt : xs.length < 8) (hlen : xs.length + bits.length = 8) :
    bits.foldl (RefBus.afterWrite c) b = b.romCommand c (byteOfBits (xs ++ bits)) := by
  induction bits generalizing b xs with
  | nil => exact absurd hlen hlt.ne
  | cons d bits ih =>
    rw [List.length_cons] at hlen
    rw [List.foldl_cons, afterWrite_romCmd hm, List.append_cons xs d bits]
    by_cases hlast : xs.length + 1 = 8
    · have hnil : bits = [] := List.length_eq_zero_iff.mp (by omega)
      rw [if_pos hlast, hnil, List.foldl_nil, List.append_nil]
    · rw [if_neg hlast, ih rfl (by simp; omega) (by simp; omega)]
      rfl

/-- The last bits of a match address, xs being those received before: the devices with that address are selected
(R127). -/
theorem foldl_afterWrite_matching (c : OWCConfig) (bits : List Bool) {b : RefBus} {xs : List Bool}
    (hm : b.mode = .matching xs) (hlt : xs.length < 64) (hlen : xs.length + bits.length = 64) :
    bits.foldl (RefBus.afterWrite c) b =
      { b with selected := b.devices.filter fun v => addrBits v.addr == xs ++ bits, mode := .function 0 } := by
  induction bits generalizing b xs with
  | nil => exact absurd hlen hlt.ne
  | cons d bits ih =>
    rw [List.length_cons] at hlen
    rw [List.foldl_cons, afterWrite_matching hm, List.append_cons xs d bits]
    by_cases hlast : xs.length + 1 = 64
    · have hnil : bits = [] := List.length_eq_zero_iff.mp (by omega)
      rw [if_pos hlast, hnil, List.foldl_nil, List.append_nil]
    · rw [if_neg hlast, ih rfl (by simp; omega) (by simp; omega)]

-- SELECT on a population that waits for a ROM command (R200)

/-- CMD_MATCH_ROM and the bits of an address select the devices with that address, unless the population takes the byte
for CMD_SEARCH_ROM (R127, log 23). -/
theorem foldl_afterWrite_select {c : OWCConfig} {b : RefBus} (hm : b.mode = .romCmd [])
    (hc : c.cmdMatchRom ≠ c.cmdSearchRom) (a : Address) :
    (bitsOf c.cmdMatchRom ++ addrBits a).foldl (RefBus.afterWrite c) b =
      { b with selected := b.devices.filter fun v => addrBits v.addr == addrBits a, mode := .function 0 } := by
  have hmatch : b.romCommand c c.cmdMatchRom = { b with mode := .matching [] } := by
    rw [RefBus.romCommand, if_neg hc, if_pos rfl]
  rw [List.foldl_append, foldl_afterWrite_romCmd c _ hm (by decide) (by simp), List.nil_append, byteOfBits_bitsOf,
    hmatch, foldl_afterWrite_matching c _ rfl (by decide) (by simp), List.nil_append]

/-- After BUS_RESET the reference population waits for a ROM command, with no device selected (R125). -/
theorem busReset_bus_ref {s t : State} {b : RefBus} (hb : s.bus = .ref b) (h : exec .busReset s = .next t) :
    t.bus = .ref { b with active := b.devices, selected := [], mode := .romCmd [] } := by
  cases h
  change (resetSlot s.startDelay).2.bus = _
  rw [resetSlot_bus, State.startDelay_bus, hb]
  rfl

theorem select_bus_ref {s t : State} {b : RefBus} (hb : s.bus = .ref b) (hm : b.mode = .romCmd [])
    (hc : s.cfg.cmdMatchRom ≠ s.cfg.cmdSearchRom) (h : exec .select s = .next t) :
    t.bus = .ref { b with selected := b.devices.filter fun v => addrBits v.addr == addrBits s.matchAddr,
                          mode := .function 0 } := by
  cases h
  rw [State.complete_bus, ← foldl_afterWrite_select hm hc]
  exact writeBits_bus_ref (s := s.startDelay) (selectBits s) hb

end Sys2Proof.Machine

open Sys2Proof.Machine in
/-- Settles O42: the population takes the first byte for CMD_MATCH_ROM, collects the 64 bits after it, and an address is
its bits. -/
theorem selectSelectsTheAddressedDevice : Obligations.SelectSelectsTheAddressedDevice := by
  intro s t u b hb hc hReset hSelect
  obtain ⟨hcfg, -⟩ := exec_sameHostSide hReset
  obtain ⟨-, -, hmatch⟩ := exec_hostFieldsKept hReset
  have hu := select_bus_ref (busReset_bus_ref hb hReset) rfl (hcfg ▸ hc) hSelect
  refine ⟨_, hu, rfl, rfl, fun d => ?_⟩
  rw [List.mem_filter, beq_iff_eq, addrBits_injective.eq_iff, hmatch]
end

section
/-! SUPPORT. What a command leaves as it was (R46), the eight read slots of a byte (R117), and the search state, which no
slot sees (R145). -/

namespace Sys2Proof.Machine

-- The frame of a command, from the write matrix

/-- The registers the matrix gives a command, STATUS set apart (R46). -/
def writtenRegs : Instr → List Reg
  | .readBit | .readByte => [.data]
  | .searchReset => [.ld, .lfd]
  | .searchFirst | .searchNext => [.ld, .lfd, .sresult] ++ romRegs
  | .crcClear | .crcFeed | .crcRom => [.crc]
  | .busReset | .writeBit | .writeByte | .select => []

/-- The fields of STATUS the matrix gives a command, BUSY set apart (R46). -/
def writtenFlags : Instr → List Flag
  | .busReset => [.presence]
  | .searchReset => [.ldf]
  | .searchFirst | .searchNext => [.presence, .found, .ldf]
  | .crcRom => [.crcOk]
  | .writeBit | .readBit | .writeByte | .readByte | .select | .crcClear | .crcFeed => []

theorem mem_writtenRegs_iff {i : Instr} {r : Reg} (h : r ≠ .status) : r ∈ writtenRegs i ↔ writesReg i r = true := by
  cases r with
  | status => exact absurd rfl h
  | _ => cases i <;> simp [writtenRegs, writesReg, romRegs]

theorem mem_writtenFlags_iff {i : Instr} {f : Flag} (h : f ≠ .busy) : f ∈ writtenFlags i ↔ writesFlag i f = true := by
  cases f with
  | busy => exact absurd rfl h
  | _ => cases i <;> simp [writtenFlags, writesFlag]

/-- What a command leaves as it was (R46). -/
theorem exec_frame {i : Instr} {s t : State} (h : exec i s = .next t) :
    SameRegsExcept (writtenRegs i) s t ∧ SameFlagsExcept (writtenFlags i) s t ∧ SameHostSide s t := by
  obtain ⟨hreg, hflag, hhost⟩ := writeMatrix i s t h
  refine ⟨fun r hstatus hr => hreg r ?_, fun f hbusy hf => hflag f ?_, hhost⟩
  · exact Bool.eq_false_iff.mpr fun hw => hr ((mem_writtenRegs_iff hstatus).mpr hw)
  · exact Bool.eq_false_iff.mpr fun hw => hf ((mem_writtenFlags_iff hbusy).mpr hw)

-- Samples as bits of DATA

theorem zext8_not (b : Bool) : zext8 (!b) = if b then 0x00 else 0x01 := by cases b <;> rfl

theorem readBitsFrom_succ (k : Nat) (r : Byte) (s : State) :
    readBitsFrom (k + 1) r s = readBitsFrom k (setBit r (7 - k) (readSlot s).1) (readSlot s).2 := rfl

/-- The last k samples of a byte leave the bits before them as they were (R117). -/
theorem bitOf_readBitsFrom_of_lt {k j : Nat} (r : Byte) (s : State) (hj : j + k < 8) :
    bitOf (readBitsFrom k r s).1 j = bitOf r j := by
  induction k generalizing r s with
  | zero => rfl
  | succ k ih => rw [readBitsFrom_succ, ih _ _ (by omega), bitOf_setBit _ _ (by omega), if_neg (by omega)]

/-- The first of the last k + 1 samples of a byte is its bit 7 - k (R117). -/
theorem bitOf_readBitsFrom_succ {k : Nat} (r : Byte) (s : State) (hk : k < 8) :
    bitOf (readBitsFrom (k + 1) r s).1 (7 - k) = (readSlot s).1 := by
  rw [readBitsFrom_succ, bitOf_readBitsFrom_of_lt _ _ (by omega), bitOf_setBit _ _ (by omega), if_pos rfl]

/-- The last k read slots of a byte stand in the record newest first, each with the bit it gave (R117). -/
theorem readBitsFrom_slots {k : Nat} (r : Byte) (s : State) (hk : k ≤ 8) :
    (readBitsFrom k r s).2.slots =
      ((List.range' (8 - k) k).map fun j => .read (bitOf (readBitsFrom k r s).1 j)).reverse ++ s.slots := by
  induction k generalizing r s with
  | zero => rfl
  | succ k ih =>
    have hrange : List.range' (8 - (k + 1)) (k + 1) = (7 - k) :: List.range' (8 - k) k := by
      rw [List.range'_succ, show 8 - (k + 1) = 7 - k by omega, show 7 - k + 1 = 8 - k by omega]
    rw [hrange, List.map_cons, bitOf_readBitsFrom_succ r s hk, readBitsFrom_succ, ih _ _ (by omega), readSlot_slots,
      List.reverse_cons, List.append_assoc, List.singleton_append]

theorem readBitsFrom_now (k : Nat) (r : Byte) (s : State) :
    (readBitsFrom k r s).2.now = s.now + k * s.cfg.tSlot := by
  induction k generalizing r s with
  | zero => rw [Nat.zero_mul]; rfl
  | succ k ih =>
    rw [readBitsFrom_succ, ih, readSlot_now, (onlyBus_readSlot s).cfg, Nat.succ_mul, Nat.add_assoc,
      Nat.add_comm (k * _)]

theorem readSlot_of_script {s : State} {l : Bool} {ls : List Bool} (hs : s.bus = .script (l :: ls)) :
    (readSlot s).1 = l ∧ (readSlot s).2.bus = .script ls := by
  rw [readSlot_fst, readSlot_bus, hs]
  exact ⟨Bool.not_not l, rfl⟩

/-- On a bus that gives stated levels, the last read slots of a byte sample them in order (R117, R118). -/
theorem bitOf_readBitsFrom_of_script (levels : List Bool) {rest : List Bool} (r : Byte) {s : State}
    (hs : s.bus = .script (levels ++ rest)) (hlen : levels.length ≤ 8) {j : Nat} (hj : j < levels.length) :
    bitOf (readBitsFrom levels.length r s).1 (8 - levels.length + j) = levels.getD j false := by
  induction levels generalizing r s j with
  | nil => exact absurd hj (Nat.not_lt_zero j)
  | cons l ls ih =>
    obtain ⟨hl, hls⟩ := readSlot_of_script hs
    rw [List.length_cons] at hlen hj ⊢
    cases j with
    | zero =>
      rw [show 8 - (ls.length + 1) + 0 = 7 - ls.length by omega, bitOf_readBitsFrom_succ r s hlen, hl]
      rfl
    | succ j =>
      rw [show 8 - (ls.length + 1) + (j + 1) = 8 - ls.length + j by omega, readBitsFrom_succ]
      exact ih _ hls (by omega) (by omega)

-- The two byte transfers (R143, R144)

theorem exec_writeByte (s : State) : exec .writeByte s = .next (writeByteSlots s.data s.startDelay).complete := rfl

theorem exec_readByte (s : State) :
    exec .readByte s = .next (commitReadByte (readByteSlots s.startDelay).1 (readByteSlots s.startDelay).2) := by
  rw [exec, execReadByte]

-- The search state

/-- s with the search state of u (R145). -/
def State.withSearchOf (s u : State) : State :=
  { s with ld := u.ld, lfd := u.lfd, ldf := u.ldf, found := u.found, rom := u.rom, sresult := u.sresult }

theorem writeBits_withSearchOf (bits : List Bool) (s u : State) :
    writeBits bits (s.withSearchOf u) = (writeBits bits s).withSearchOf u := by
  induction bits generalizing s with
  | nil => rfl
  | cons b bits ih => exact ih (writeSlot b s)

theorem readBitsFrom_withSearchOf (k : Nat) (r : Byte) (s u : State) :
    readBitsFrom k r (s.withSearchOf u) = ((readBitsFrom k r s).1, (readBitsFrom k r s).2.withSearchOf u) := by
  induction k generalizing r s with
  | zero => rfl
  | succ k ih => exact ih _ (readSlot s).2

/-- From another search state a transfer command does the same, and leaves that one as it is (R145). -/
theorem exec_withSearchOf {i : Instr} {s t : State}
    (hi : i = .busReset ∨ i = .writeBit ∨ i = .readBit ∨ i = .writeByte ∨ i = .readByte) (h : exec i s = .next t)
    (u : State) : exec i (s.withSearchOf u) = .next (t.withSearchOf u) := by
  rcases hi with rfl | rfl | rfl | rfl | rfl
  · cases h; rfl
  · cases h; rfl
  · cases h; rfl
  · cases (exec_writeByte s).symm.trans h
    have hbits := writeBits_withSearchOf (bitsOf s.data) s.startDelay u
    exact (exec_writeByte _).trans (congrArg (fun w => Host.Outcome.next w.complete) hbits)
  · cases (exec_readByte s).symm.trans h
    have hbits := readBitsFrom_withSearchOf 8 0x00 s.startDelay u
    exact (exec_readByte _).trans (congrArg (fun x => Host.Outcome.next (commitReadByte x.1 x.2)) hbits)

end Sys2Proof.Machine

open Sys2Proof.Machine in
/-- Settles O23: the sample of the reset slot is the released line, and the matrix gives BUS_RESET PRESENCE alone. -/
theorem busResetResult : Obligations.BusResetResult := fun s =>
  ⟨_, rfl, ⟨rfl, rfl⟩, Bool.not_not _, rfl, rfl, exec_frame (i := .busReset) (s := s) rfl⟩

open Sys2Proof.Machine in
/-- Settles O24: one write slot, and the matrix gives WRITE_BIT nothing. -/
theorem writeBitResult : Obligations.WriteBitResult := fun s =>
  ⟨_, rfl, ⟨rfl, rfl⟩, rfl, rfl, rfl, exec_frame (i := .writeBit) (s := s) rfl⟩

open Sys2Proof.Machine in
/-- Settles O25: one read slot, whose sample is the released line. -/
theorem readBitResult : Obligations.ReadBitResult := fun s =>
  ⟨_, rfl, ⟨rfl, rfl⟩, zext8_not _, rfl, rfl, exec_frame (i := .readBit) (s := s) rfl⟩

open Sys2Proof.Machine in
/-- Settles O26: WRITE_BYTE is a run of write slots over the bits of DATA. -/
theorem writeByteResult : Obligations.WriteByteResult := by
  intro s
  obtain ⟨hslots, hdraws, hnow⟩ := writeBits_spec (bitsOf s.data) s.startDelay
  rw [length_bitsOf] at hnow
  exact ⟨_, exec_writeByte s, ⟨rfl, rfl⟩, hslots, hdraws, hnow, exec_frame (exec_writeByte s)⟩

open Sys2Proof.Machine in
/-- Settles O27: each read slot sets its bit of the byte, and no later one changes it. -/
theorem readByteResult : Obligations.ReadByteResult := by
  intro s
  refine ⟨_, exec_readByte s, ⟨rfl, rfl⟩, readBitsFrom_slots 0x00 s.startDelay le_rfl,
    readBitsFrom_now 8 0x00 s.startDelay, fun levels rest hbus hlen k hk => ?_, exec_frame (exec_readByte s)⟩
  have hbit := bitOf_readBitsFrom_of_script levels 0x00 (s := s.startDelay) hbus hlen.le (hlen ▸ hk)
  rw [hlen, Nat.sub_self, Nat.zero_add] at hbit
  exact hbit

open Sys2Proof.Machine in
/-- Settles O28: neither the slots nor the commits of the transfer commands see the search state. -/
theorem transfersIgnoreTheSearchState : Obligations.TransfersIgnoreTheSearchState :=
  fun _ s _ ld lfd ldf found rom code hi h =>
    exec_withSearchOf hi h { s with ld := ld, lfd := lfd, ldf := ldf, found := found, rom := rom, sresult := code }
end

section
/-! SUPPORT. A pass position by position: what it has read, written and recorded after n positions, and where the loop
of R171 ends (R160 to R165). -/

namespace Sys2Proof.Machine

-- What the two reads and the direction make of a pass, field by field

theorem takeDirection_lastZero (p : Pass) (d : Bool) :
    (p.takeDirection d).lastZero = if p.idBit == p.cmpBit && !d then p.n else p.lastZero := by
  simp only [Pass.takeDirection, Pass.recordZero]
  split <;> rfl

theorem takeDirection_lfd (p : Pass) (d : Bool) :
    (p.takeDirection d).lfd =
      if (p.idBit == p.cmpBit && !d) && decide (p.n ≤ 8) then BitVec.ofNat 8 p.n else p.lfd := by
  simp only [Pass.takeDirection, Pass.recordZero]
  cases p.idBit == p.cmpBit && !d <;> simp

@[simp] theorem classify_ld (p : Pass) (old : Address) : (p.classify old).ld = p.ld := by
  unfold Pass.classify
  split
  · rfl
  · exact takeDirection_ld _ _

@[simp] theorem classify_presence (p : Pass) (old : Address) : (p.classify old).presence = p.presence := by
  unfold Pass.classify
  split
  · rfl
  · exact takeDirection_presence _ _

-- Whole positions

/-- The pass-local state with the bit and the complement just read (R162). -/
def Pass.sampled (p : Pass) (id cmp : Bool) : Pass := { p with idBit := id, cmpBit := cmp }

/-- A whole position of a pass: the two reads and the write (R160). -/
def runPosition (old : Address) (x : Pass × State) : Pass × State :=
  ((readPosition old x.1 x.2).1.advance, writeSlot (readPosition old x.1 x.2).1.dir (readPosition old x.1 x.2).2)

/-- The pass-local state and the machine after n whole positions. -/
@[irreducible] def afterPositions (old : Address) (x : Pass × State) (n : Nat) : Pass × State := (runPosition old)^[n] x

/-- The bit read at position n of a pass that begins with x (R162). -/
def idRead (old : Address) (x : Pass × State) (n : Nat) : Bool := (readSlot (afterPositions old x (n - 1)).2).1

/-- The complement read at position n (R162). -/
def cmpRead (old : Address) (x : Pass × State) (n : Nat) : Bool :=
  (readSlot (readSlot (afterPositions old x (n - 1)).2).2).1

/-- The direction taken at position n (R162, R163). -/
def dirTaken (old : Address) (x : Pass × State) (n : Nat) : Bool :=
  (readPosition old (afterPositions old x (n - 1)).1 (afterPositions old x (n - 1)).2).1.dir

/-- No position up to n read 1,1 (R162). -/
def NoFault (old : Address) (x : Pass × State) (n : Nat) : Prop :=
  ∀ j, 1 ≤ j → j ≤ n → ¬(idRead old x j = true ∧ cmpRead old x j = true)

section positions
variable (old : Address) (x : Pass × State)

@[simp] theorem afterPositions_zero : afterPositions old x 0 = x := by rw [afterPositions, Function.iterate_zero_apply]

theorem afterPositions_succ (n : Nat) :
    afterPositions old x (n + 1) = runPosition old (afterPositions old x n) := by
  rw [afterPositions, afterPositions, Function.iterate_succ_apply']

/-- The positions after the first. -/
theorem afterPositions_runPosition (n : Nat) :
    afterPositions old (runPosition old x) n = afterPositions old x (n + 1) := by
  rw [afterPositions, afterPositions, Function.iterate_succ_apply]

@[simp] theorem afterPositions_n (n : Nat) : (afterPositions old x n).1.n = x.1.n + n := by
  induction n with
  | zero => rw [afterPositions_zero]; rfl
  | succ n ih =>
    rw [afterPositions_succ, ← Nat.add_assoc, ← ih]
    exact congrArg (· + 1) (readPosition_n old _ _)

@[simp] theorem afterPositions_ld (n : Nat) : (afterPositions old x n).1.ld = x.1.ld := by
  induction n with
  | zero => rw [afterPositions_zero]
  | succ n ih =>
    rw [afterPositions_succ, ← ih]
    exact classify_ld _ old

@[simp] theorem afterPositions_presence (n : Nat) : (afterPositions old x n).1.presence = x.1.presence := by
  induction n with
  | zero => rw [afterPositions_zero]
  | succ n ih =>
    rw [afterPositions_succ, ← ih]
    exact classify_presence _ old

theorem afterPositions_code (n : Nat) :
    (afterPositions old x (n + 1)).1.code = if x.1.n + n + 1 = 65 then .found else .none := by
  have hn : (readPosition old (afterPositions old x n).1 (afterPositions old x n).2).1.n = x.1.n + n :=
    (readPosition_n old _ _).trans (afterPositions_n old x n)
  rw [afterPositions_succ, ← hn]
  rfl

theorem onlyBus_afterPositions (n : Nat) : OnlyBus x.2 (afterPositions old x n).2 := by
  induction n with
  | zero => rw [afterPositions_zero]; exact .refl _
  | succ n ih =>
    rw [afterPositions_succ]
    exact ih.trans ((onlyBus_readPosition old _ _).trans (onlyBus_writeSlot _ _))

theorem afterPositions_now (n : Nat) : (afterPositions old x n).2.now = x.2.now + 3 * n * x.2.cfg.tSlot := by
  induction n with
  | zero => simp
  | succ n ih =>
    have hstep : (afterPositions old x (n + 1)).2.now =
        (afterPositions old x n).2.now + x.2.cfg.tSlot + x.2.cfg.tSlot + x.2.cfg.tSlot := by
      rw [afterPositions_succ, ← (onlyBus_afterPositions old x n).cfg]
      rfl
    rw [hstep, ih, Nat.mul_succ, Nat.add_mul]
    omega

/-- The three slots of a position, newest first (R160). -/
theorem afterPositions_slots_succ (n : Nat) :
    (afterPositions old x (n + 1)).2.slots =
      .write (dirTaken old x (n + 1)) :: .read (cmpRead old x (n + 1)) :: .read (idRead old x (n + 1)) ::
        (afterPositions old x n).2.slots := by
  rw [afterPositions_succ]
  rfl

end positions

-- The end of the loop

/-- The position after those of x is a bus fault (R162). -/
def FaultsNext (old : Address) (x : Pass × State) : Prop := (readPosition old x.1 x.2).1.code = .busFault

theorem faultsNext_iff {old : Address} {x : Pass × State} (hc : x.1.code ≠ .busFault) :
    FaultsNext old x ↔ ((readSlot x.2).1 && (readSlot (readSlot x.2).2).1) = true := by
  refine ⟨fun hf => by_contra fun hbits => ?_, fun hbits => ?_⟩
  · have hread : (readPosition old x.1 x.2).1 = _ :=
      classify_of_no_fault (p := x.1.sampled (readSlot x.2).1 (readSlot (readSlot x.2).2).1) old
        (eq_false_of_ne_true hbits)
    have hcode : (readPosition old x.1 x.2).1.code = x.1.code := by
      rw [hread]
      exact takeDirection_code _ _
    exact hc (hcode.symm.trans hf)
  · obtain ⟨hid, hcmp⟩ := Bool.and_eq_true_iff.mp hbits
    exact congrArg Pass.code
      (classify_of_fault (p := x.1.sampled (readSlot x.2).1 (readSlot (readSlot x.2).2).1) old hid hcmp)

/-- The loop of R171 runs all its positions, or ends after the two reads of the first that is a bus fault. -/
theorem searchPositions_cases (old : Address) (k : Nat) (x : Pass × State) :
    ((∀ j, j < k → ¬FaultsNext old (afterPositions old x j)) ∧
      searchPositions k old x.1 x.2 = afterPositions old x k) ∨
    ∃ m, m < k ∧ (∀ j, j < m → ¬FaultsNext old (afterPositions old x j)) ∧
      FaultsNext old (afterPositions old x m) ∧
      searchPositions k old x.1 x.2 = readPosition old (afterPositions old x m).1 (afterPositions old x m).2 := by
  induction k generalizing x with
  | zero => exact .inl ⟨fun j hj => absurd hj (Nat.not_lt_zero j), (afterPositions_zero old x).symm⟩
  | succ k ih =>
    by_cases hf : FaultsNext old x
    · refine .inr ⟨0, Nat.succ_pos k, fun j hj => absurd hj (Nat.not_lt_zero j), ?_⟩
      rw [afterPositions_zero]
      exact ⟨hf, (searchPositions_succ k old x.1 x.2).trans (if_pos hf)⟩
    · have hstep : searchPositions (k + 1) old x.1 x.2 =
          searchPositions k old (runPosition old x).1 (runPosition old x).2 :=
        (searchPositions_succ k old x.1 x.2).trans (if_neg hf)
      have hfirst (m : Nat) (h : ∀ j, j < m → ¬FaultsNext old (afterPositions old x (j + 1))) :
          ∀ j, j < m + 1 → ¬FaultsNext old (afterPositions old x j)
        | 0, _ => (afterPositions_zero old x).symm ▸ hf
        | j + 1, hj => h j (Nat.lt_of_succ_lt_succ hj)
      have hrest := ih (runPosition old x)
      simp only [afterPositions_runPosition] at hrest
      rcases hrest with ⟨hnone, hend⟩ | ⟨m, hm, hnone, hfault, hend⟩
      · exact .inl ⟨hfirst k hnone, hstep.trans hend⟩
      · exact .inr ⟨m + 1, Nat.succ_lt_succ hm, hfirst m hnone, hfault, hstep.trans hend⟩

theorem afterPositions_code_ne_busFault {x : Pass × State} (hc : x.1.code = .none) (old : Address) (n : Nat) :
    (afterPositions old x n).1.code ≠ .busFault := by
  cases n with
  | zero =>
    rw [afterPositions_zero, hc]
    exact SearchCode.noConfusion
  | succ n =>
    rw [afterPositions_code]
    split <;> exact SearchCode.noConfusion

/-- A bus fault at position m + 1 is "1,1" read there (R162). -/
theorem faultsNext_afterPositions_iff {old : Address} {x : Pass × State} (hc : x.1.code = .none) (m : Nat) :
    FaultsNext old (afterPositions old x m) ↔ idRead old x (m + 1) = true ∧ cmpRead old x (m + 1) = true :=
  (faultsNext_iff (afterPositions_code_ne_busFault hc old m)).trans Bool.and_eq_true_iff

/-- The loop of R171, by what the positions read. -/
theorem searchPositions_ends {x : Pass × State} (hc : x.1.code = .none) (old : Address) (k : Nat) :
    (NoFault old x k ∧ searchPositions k old x.1 x.2 = afterPositions old x k) ∨
    ∃ m, m < k ∧ NoFault old x m ∧ idRead old x (m + 1) = true ∧ cmpRead old x (m + 1) = true ∧
      searchPositions k old x.1 x.2 = readPosition old (afterPositions old x m).1 (afterPositions old x m).2 := by
  have hno {n : Nat} (h : ∀ j, j < n → ¬FaultsNext old (afterPositions old x j)) : NoFault old x n
    | j + 1, _, hj => mt (faultsNext_afterPositions_iff hc j).mpr (h j hj)
  rcases searchPositions_cases old k x with ⟨hnone, hend⟩ | ⟨m, hm, hnone, hfault, hend⟩
  · exact .inl ⟨hno hnone, hend⟩
  · obtain ⟨hid, hcmp⟩ := (faultsNext_afterPositions_iff hc m).mp hfault
    exact .inr ⟨m, hm, hno hnone, hid, hcmp, hend⟩

-- What a pass without a fault has written and recorded

/-- A 0 was chosen at a discrepancy at position n (R164). -/
def zeroTaken (old : Address) (x : Pass × State) (n : Nat) : Bool :=
  !idRead old x n && !cmpRead old x n && !dirTaken old x n

/-- z is the last of the positions 1 to n with P, or 0 if there is none. -/
def IsLast (P : Nat → Prop) (n z : Nat) : Prop :=
  (∀ j, 1 ≤ j → j ≤ n → P j → j ≤ z) ∧ (z ≠ 0 → 1 ≤ z ∧ z ≤ n ∧ P z)

theorem isLast_zero (P : Nat → Prop) : IsLast P 0 0 := ⟨fun _ _ hj _ => hj, fun h => absurd rfl h⟩

theorem isLast_of_holds {P : Nat → Prop} {n : Nat} (h : P (n + 1)) : IsLast P (n + 1) (n + 1) :=
  ⟨fun _ _ hj _ => hj, fun _ => ⟨Nat.succ_pos n, le_rfl, h⟩⟩

theorem IsLast.succ_of_not {P : Nat → Prop} {n z : Nat} (hz : IsLast P n z) (h : ¬P (n + 1)) : IsLast P (n + 1) z := by
  obtain ⟨hall, hlast⟩ := hz
  refine ⟨fun j h1 hj hP => ?_, fun h0 => ?_⟩
  · have hne : j ≠ n + 1 := fun he => h (he ▸ hP)
    exact hall j h1 (by omega) hP
  · obtain ⟨h1, hn, hP⟩ := hlast h0
    exact ⟨h1, hn.trans (Nat.le_succ n), hP⟩

theorem IsLast.congr {P Q : Nat → Prop} {n z : Nat} (hz : IsLast P n z) (h : ∀ j, 1 ≤ j → j ≤ n → (P j ↔ Q j)) :
    IsLast Q n z := by
  obtain ⟨hall, hlast⟩ := hz
  refine ⟨fun j h1 hj hQ => hall j h1 hj ((h j h1 hj).mpr hQ), fun h0 => ?_⟩
  obtain ⟨h1, hn, hP⟩ := hlast h0
  exact ⟨h1, hn, (h z h1 hn).mp hP⟩

theorem positionSlots_succ (id cmp : Nat → Bool) (rom : Address) (n : Nat) :
    positionSlots id cmp rom (n + 1) = positionSlots id cmp rom n ++
      [.read (id (n + 1)), .read (cmp (n + 1)), .write (romBit rom (n + 1))] := by
  simp [positionSlots, List.range_succ]

theorem IsLast.le {P : Nat → Prop} {n z : Nat} (hz : IsLast P n z) : z ≤ n := by
  by_cases h0 : z = 0
  · omega
  · exact (hz.2 h0).2.1

/-- A position fits in a byte. -/
theorem IsLast.toNat_ofNat {P : Nat → Prop} {n z : Nat} (hz : IsLast P n z) (hn : n ≤ 64) :
    (BitVec.ofNat 8 z).toNat = z := by
  have := hz.le
  rw [BitVec.toNat_ofNat]
  omega

theorem IsLast.ofNat_eq_zero_iff {P : Nat → Prop} {n z : Nat} (hz : IsLast P n z) (hn : n ≤ 64) :
    BitVec.ofNat 8 z = 0 ↔ z = 0 := by
  rw [← BitVec.toNat_inj, hz.toNat_ofNat hn]
  rfl

section noFault
variable {old : Address} {x : Pass × State} {n : Nat}

theorem NoFault.mono {m : Nat} (h : NoFault old x n) (hm : m ≤ n) : NoFault old x m :=
  fun j h1 hj => h j h1 (hj.trans hm)

/-- The pass-local state after the two reads of a position, the direction not yet taken (R162). -/
def sampledAt (old : Address) (x : Pass × State) (n : Nat) : Pass :=
  (afterPositions old x (n - 1)).1.sampled (idRead old x n) (cmpRead old x n)

/-- At a position that is no fault a direction is taken by the rules (R162, R163). -/
theorem readPosition_of_noFault (h : NoFault old x (n + 1)) :
    (readPosition old (afterPositions old x n).1 (afterPositions old x n).2).1 =
      (sampledAt old x (n + 1)).takeDirection ((sampledAt old x (n + 1)).direction old) :=
  classify_of_no_fault (p := sampledAt old x (n + 1)) old
    (by simpa [sampledAt, Pass.sampled] using h (n + 1) (Nat.succ_pos n) le_rfl)

theorem dirTaken_eq_direction (h : NoFault old x (n + 1)) :
    dirTaken old x (n + 1) = (sampledAt old x (n + 1)).direction old :=
  (congrArg Pass.dir (readPosition_of_noFault h)).trans (takeDirection_dir _ _)

/-- The next position writes the direction, and records it as the rules of R164 say. -/
theorem afterPositions_succ_fst (h : NoFault old x (n + 1)) :
    (afterPositions old x (n + 1)).1 = ((sampledAt old x (n + 1)).takeDirection (dirTaken old x (n + 1))).advance := by
  rw [afterPositions_succ, dirTaken_eq_direction h, ← readPosition_of_noFault h]
  rfl

/-- With no fault, equal bits are two zeros: the condition of R164. -/
theorem zeroRecorded_eq (h : NoFault old x (n + 1)) :
    ((sampledAt old x (n + 1)).idBit == (sampledAt old x (n + 1)).cmpBit && !dirTaken old x (n + 1)) =
      zeroTaken old x (n + 1) := by
  have hbits : ∀ id cmp d : Bool, ¬(id = true ∧ cmp = true) → (id == cmp && !d) = (!id && !cmp && !d) := by decide
  exact hbits _ _ _ (h (n + 1) (Nat.succ_pos n) le_rfl)

variable (hx : x.1.n = 1)
include hx

theorem sampledAt_n : (sampledAt old x (n + 1)).n = n + 1 :=
  (afterPositions_n old x n).trans (by omega)

theorem afterPositions_rom_succ (h : NoFault old x (n + 1)) :
    (afterPositions old x (n + 1)).1.rom =
      setRomBit (afterPositions old x n).1.rom (n + 1) (dirTaken old x (n + 1)) := by
  rw [afterPositions_succ_fst h]
  exact (takeDirection_rom _ _).trans (by rw [sampledAt_n hx]; rfl)

/-- The bits written are the directions (R165). -/
theorem romBit_afterPositions_of_le (h : NoFault old x n) (hn : n ≤ 64) {j : Nat} (h1 : 1 ≤ j) (hj : j ≤ n) :
    romBit (afterPositions old x n).1.rom j = dirTaken old x j := by
  induction n with
  | zero => omega
  | succ n ih =>
    rw [afterPositions_rom_succ hx h]
    rcases Nat.le_succ_iff.mp hj with hlt | rfl
    · rw [romBit_setRomBit_of_ne _ _ (by omega) hn h1 (by omega) (by omega)]
      exact ih (h.mono (Nat.le_succ n)) (by omega) hlt
    · exact romBit_setRomBit_same _ _ h1 hn

/-- The bits after those written are as they were (R165). -/
theorem romBit_afterPositions_of_gt (h : NoFault old x n) {j : Nat} (hj : n < j) (hj64 : j ≤ 64) :
    romBit (afterPositions old x n).1.rom j = romBit x.1.rom j := by
  induction n with
  | zero => rw [afterPositions_zero]
  | succ n ih =>
    rw [afterPositions_rom_succ hx h, romBit_setRomBit_of_ne _ _ (by omega) (by omega) (by omega) hj64 (by omega)]
    exact ih (h.mono (Nat.le_succ n)) (by omega)

/-- LD' is the last position at which a 0 was chosen at a discrepancy (R164). -/
theorem isLast_lastZero (h : NoFault old x n) (hz : x.1.lastZero = 0) :
    IsLast (zeroTaken old x · = true) n (afterPositions old x n).1.lastZero := by
  induction n with
  | zero =>
    rw [afterPositions_zero, hz]
    exact isLast_zero _
  | succ n ih =>
    have hlast : (afterPositions old x (n + 1)).1.lastZero =
        if zeroTaken old x (n + 1) then n + 1 else (afterPositions old x n).1.lastZero := by
      rw [afterPositions_succ_fst h, ← zeroRecorded_eq h]
      exact (takeDirection_lastZero _ _).trans (by rw [sampledAt_n hx]; rfl)
    rw [hlast]
    by_cases h0 : zeroTaken old x (n + 1) = true
    · rw [if_pos h0]
      exact isLast_of_holds h0
    · rw [if_neg h0]
      exact (ih (h.mono (Nat.le_succ n))).succ_of_not h0

/-- LFD' is the last such position of 1 to 8, or what it was (R164). -/
theorem isLast_lfd (h : NoFault old x n) :
    ∃ z, IsLast (zeroTaken old x · = true) (min n 8) z ∧
      (afterPositions old x n).1.lfd = if z = 0 then x.1.lfd else BitVec.ofNat 8 z := by
  induction n with
  | zero => exact ⟨0, isLast_zero _, by rw [afterPositions_zero, if_pos rfl]⟩
  | succ n ih =>
    have hlfd : (afterPositions old x (n + 1)).1.lfd =
        if zeroTaken old x (n + 1) && decide (n + 1 ≤ 8) then BitVec.ofNat 8 (n + 1)
        else (afterPositions old x n).1.lfd := by
      rw [afterPositions_succ_fst h, ← zeroRecorded_eq h]
      exact (takeDirection_lfd _ _).trans (by rw [sampledAt_n hx]; rfl)
    obtain ⟨z, hz, hzlfd⟩ := ih (h.mono (Nat.le_succ n))
    rw [hlfd]
    rcases Nat.lt_or_ge n 8 with hn | hn
    · rw [show min (n + 1) 8 = n + 1 by omega]
      rw [show min n 8 = n by omega] at hz
      by_cases h0 : zeroTaken old x (n + 1) = true
      · exact ⟨n + 1, isLast_of_holds h0, by simp [h0, Nat.succ_le_of_lt hn]⟩
      · exact ⟨z, hz.succ_of_not h0, by simp [h0, hzlfd]⟩
    · rw [show min (n + 1) 8 = min n 8 by omega]
      exact ⟨z, hz, by simp [Nat.not_lt.mpr hn, hzlfd]⟩

/-- The positions passed have followed the direction rules (R162, R163). -/
theorem directionRule_afterPositions (h : NoFault old x n) (hn : n ≤ 64) {j : Nat} (h1 : 1 ≤ j) (hj : j ≤ n) :
    DirectionRule (idRead old x) (cmpRead old x) x.1.ld.toNat old (afterPositions old x n).1.rom j := by
  obtain ⟨m, rfl⟩ : ∃ m, j = m + 1 := ⟨j - 1, by omega⟩
  have hdir : dirTaken old x (m + 1) =
      if idRead old x (m + 1) != cmpRead old x (m + 1) then idRead old x (m + 1)
      else if m + 1 < x.1.ld.toNat then romBit old (m + 1) else decide (m + 1 = x.1.ld.toNat) := by
    rw [dirTaken_eq_direction (h.mono hj), Pass.direction, sampledAt_n hx]
    rw [← afterPositions_ld old x m]
    rfl
  rw [DirectionRule, romBit_afterPositions_of_le hx h hn h1 hj, hdir]
  exact ⟨h _ h1 hj, fun hne => if_pos (bne_iff_ne.mpr hne), fun he => if_neg (by simp [he])⟩

/-- The slots of the positions passed (R160). -/
theorem afterPositions_slots (h : NoFault old x n) (hn : n ≤ 64) {m : Nat} (hm : m ≤ n) :
    (afterPositions old x m).2.slots =
      (positionSlots (idRead old x) (cmpRead old x) (afterPositions old x n).1.rom m).reverse ++ x.2.slots := by
  induction m with
  | zero => rw [afterPositions_zero]; rfl
  | succ m ih =>
    rw [afterPositions_slots_succ, ih (by omega), positionSlots_succ,
      romBit_afterPositions_of_le hx h hn (Nat.succ_pos m) hm, List.reverse_append]
    rfl

end noFault

end Sys2Proof.Machine
end

section
/-! SUPPORT. How a search command ends: EXHAUSTED, BUS_EMPTY, a complete pass, or a bus fault (R162 to R174). -/

namespace Sys2Proof.Machine

/-- The pass-local state with which a search command begins; SEARCH_FIRST has cleared the search state (R173, R174). -/
def firstPass (i : Instr) (s : State) : Pass := Pass.start (if i = .searchFirst then s.clearSearch else s)

/-- The pass-local state and the machine at position 1, after a reset slot that a device answered and the search byte
(R166). -/
def opened (i : Instr) (s : State) : Pass × State :=
  ((firstPass i s).afterReset false, writeByteSlots s.cfg.cmdSearchRom (resetSlot s.startDelay).2)

/-- The pass-local state and the machine after n positions of a search command accepted in s. -/
def passAfter (i : Instr) (s : State) (n : Nat) : Pass × State := afterPositions s.rom (opened i s) n

/-- How a search command accepted in s can end, with the state it commits. -/
inductive SearchEnd (i : Instr) (s : State) : State → Prop
  /-- The pass began with LDF = 1 (R167). -/
  | exhausted (hldf : startLdf i s = true) : SearchEnd i s (commitPass (firstPass i s) s.internalDelay)
  /-- No device answered the reset slot (R166). -/
  | busEmpty (hldf : startLdf i s = false) (hbus : s.bus.pullsLow s.draws .reset = false) :
    SearchEnd i s (commitPass ((firstPass i s).afterReset true) (resetSlot s.startDelay).2)
  /-- All 64 positions were passed (R168). -/
  | completed (hldf : startLdf i s = false) (hbus : s.bus.pullsLow s.draws .reset = true)
    (hclean : NoFault s.rom (opened i s) 64) :
    SearchEnd i s (commitPass (passAfter i s 64).1 (passAfter i s 64).2)
  /-- Position m + 1 read 1,1 (R162). -/
  | faulted (m : Nat) (hldf : startLdf i s = false) (hbus : s.bus.pullsLow s.draws .reset = true) (hm : m < 64)
    (hclean : NoFault s.rom (opened i s) m) (hid : idRead s.rom (opened i s) (m + 1) = true)
    (hcmp : cmpRead s.rom (opened i s) (m + 1) = true) :
    SearchEnd i s (commitPass (readPosition s.rom (passAfter i s m).1 (passAfter i s m).2).1
      (readPosition s.rom (passAfter i s m).1 (passAfter i s m).2).2)

-- Where a command begins

section start
variable (i : Instr) (s : State)

@[simp] theorem firstPass_lastZero : (firstPass i s).lastZero = 0 := rfl
@[simp] theorem firstPass_rom : (firstPass i s).rom = s.rom := by unfold firstPass; split <;> rfl
@[simp] theorem firstPass_ld : (firstPass i s).ld.toNat = startLd i s := by unfold firstPass startLd; split <;> rfl
@[simp] theorem firstPass_lfd : (firstPass i s).lfd = startLfd i s := by unfold firstPass startLfd; split <;> rfl

theorem firstPass_code : (firstPass i s).code = if startLdf i s then .exhausted else .none := by
  unfold firstPass startLdf
  split <;> rfl

@[simp] theorem opened_n : (opened i s).1.n = 1 := rfl
@[simp] theorem opened_code : (opened i s).1.code = .none := rfl
@[simp] theorem opened_ld : (opened i s).1.ld.toNat = startLd i s := firstPass_ld i s
@[simp] theorem opened_lfd : (opened i s).1.lfd = startLfd i s := firstPass_lfd i s
@[simp] theorem opened_rom : (opened i s).1.rom = s.rom := firstPass_rom i s

theorem onlyBus_opened : OnlyBus s (opened i s).2 :=
  ((onlyBus_startDelay s).trans (onlyBus_resetSlot s.startDelay)).trans (onlyBus_writeBits _ _)

theorem opened_now : (opened i s).2.now = s.now + s.cfg.tStart + s.cfg.tRst + 8 * s.cfg.tSlot := by
  obtain ⟨-, -, hnow⟩ := writeBits_spec (bitsOf s.cfg.cmdSearchRom) (resetSlot s.startDelay).2
  rw [length_bitsOf] at hnow
  exact hnow

/-- The slots of the opening (R166). -/
theorem opened_slots (hbus : s.bus.pullsLow s.draws .reset = true) :
    (opened i s).2.slots = (passOpening s.cfg).reverse ++ s.slots := by
  obtain ⟨hslots, -, -⟩ := writeBits_spec (bitsOf s.cfg.cmdSearchRom) (resetSlot s.startDelay).2
  have hreset : (resetSlot s.startDelay).1 = false := by simp [hbus]
  rw [passOpening, List.reverse_cons, List.append_assoc, ← hreset]
  exact hslots

@[simp] theorem passAfter_zero : passAfter i s 0 = opened i s := afterPositions_zero _ _

theorem onlyBus_passAfter (n : Nat) : OnlyBus s (passAfter i s n).2 :=
  (onlyBus_opened i s).trans (onlyBus_afterPositions _ _ n)

@[simp] theorem passAfter_presence (n : Nat) : (passAfter i s n).1.presence = true := afterPositions_presence _ _ n

end start

-- The meaning of a search command

theorem exec_searchFirst (s : State) : exec .searchFirst s = .next (searchPass s.clearSearch) := by
  rw [exec, execSearchFirst]

theorem exec_searchNext (s : State) : exec .searchNext s = .next (searchPass s) := by rw [exec, execSearchNext]

theorem exec_search {i : Instr} (hi : i = .searchFirst ∨ i = .searchNext) (s : State) :
    exec i s = .next (if startLdf i s then commitPass (firstPass i s) s.internalDelay
      else passOnBus (firstPass i s) s.startDelay) := by
  rcases hi with rfl | rfl
  · have hldf : startLdf .searchFirst s = false := rfl
    rw [exec_searchFirst, searchPass_clearSearch, hldf, if_neg Bool.false_ne_true]
    rfl
  · rw [exec_searchNext, searchPass_eq]
    rfl

/-- A pass on the bus ends in one of the three ways of R166, R168 and R162. -/
theorem searchEnd_onBus {i : Instr} {s : State} (hldf : startLdf i s = false) :
    SearchEnd i s (passOnBus (firstPass i s) s.startDelay) := by
  unfold passOnBus
  cases hbus : s.bus.pullsLow s.draws .reset with
  | false =>
    have hreset : (resetSlot s.startDelay).1 = true := by simp [hbus]
    rw [hreset, if_pos rfl]
    exact .busEmpty hldf hbus
  | true =>
    have hreset : (resetSlot s.startDelay).1 = false := by simp [hbus]
    rw [hreset, if_neg Bool.false_ne_true]
    change SearchEnd i s (commitPass (searchPositions 64 s.rom (opened i s).1 (opened i s).2).1
      (searchPositions 64 s.rom (opened i s).1 (opened i s).2).2)
    rcases searchPositions_ends (opened_code i s) s.rom 64 with ⟨hclean, hend⟩ | ⟨m, hm, hclean, hid, hcmp, hend⟩
    · rw [hend]
      exact .completed hldf hbus hclean
    · rw [hend]
      exact .faulted m hldf hbus hm hclean hid hcmp

/-- A search command commits in every state, at one of the ends. -/
theorem exists_searchEnd {i : Instr} (hi : i = .searchFirst ∨ i = .searchNext) (s : State) :
    ∃ t, exec i s = .next t ∧ SearchEnd i s t := by
  refine ⟨_, exec_search hi s, ?_⟩
  cases hldf : startLdf i s with
  | true => exact .exhausted hldf
  | false => exact searchEnd_onBus hldf

theorem searchEnd_of_exec {i : Instr} {s t : State} (hi : i = .searchFirst ∨ i = .searchNext)
    (h : exec i s = .next t) : SearchEnd i s t := by
  obtain ⟨u, hu, hend⟩ := exists_searchEnd hi s
  cases hu.symm.trans h
  exact hend

-- The outcome of each end (R169, R170)

theorem outcome_of_code_ne_found {p : Pass} (h : p.code ≠ .found) : p.outcome = p.code :=
  if_neg fun hc => h hc.1

theorem outcome_of_code_found {p : Pass} (h : p.code = .found) :
    p.outcome = if addrByte p.rom 0 = 0x00 then .zeroFamily else .found := by
  simp [Pass.outcome, h]

theorem outcome_exhausted {i : Instr} {s : State} (hldf : startLdf i s = true) :
    (firstPass i s).outcome = .exhausted := by
  have hcode : (firstPass i s).code = .exhausted := (firstPass_code i s).trans (if_pos hldf)
  rw [outcome_of_code_ne_found (hcode ▸ SearchCode.noConfusion), hcode]

theorem outcome_busEmpty (p : Pass) : (p.afterReset true).outcome = .busEmpty :=
  outcome_of_code_ne_found SearchCode.noConfusion

theorem passAfter_code (i : Instr) (s : State) : (passAfter i s 64).1.code = .found :=
  afterPositions_code s.rom (opened i s) 63

theorem outcome_completed (i : Instr) (s : State) :
    (passAfter i s 64).1.outcome = if addrByte (passAfter i s 64).1.rom 0 = 0x00 then .zeroFamily else .found :=
  outcome_of_code_found (passAfter_code i s)

section faulted
variable {i : Instr} {s : State} {m : Nat} (hid : idRead s.rom (opened i s) (m + 1) = true)
  (hcmp : cmpRead s.rom (opened i s) (m + 1) = true)
include hid hcmp

theorem readPosition_of_fault :
    (readPosition s.rom (passAfter i s m).1 (passAfter i s m).2).1 =
      { sampledAt s.rom (opened i s) (m + 1) with code := .busFault } :=
  classify_of_fault (p := sampledAt s.rom (opened i s) (m + 1)) s.rom hid hcmp

theorem outcome_faulted : (readPosition s.rom (passAfter i s m).1 (passAfter i s m).2).1.outcome = .busFault := by
  rw [readPosition_of_fault hid hcmp]
  exact outcome_of_code_ne_found SearchCode.noConfusion

/-- The position that faults writes no bit of ROM (R165). -/
theorem readPosition_rom_of_fault :
    (readPosition s.rom (passAfter i s m).1 (passAfter i s m).2).1.rom = (passAfter i s m).1.rom := by
  rw [readPosition_of_fault hid hcmp]
  rfl

theorem readPosition_presence_of_fault :
    (readPosition s.rom (passAfter i s m).1 (passAfter i s m).2).1.presence = true := by
  rw [readPosition_of_fault hid hcmp]
  exact passAfter_presence i s m

/-- Its two read slots sampled 1. -/
theorem readPosition_slots_of_fault :
    (readPosition s.rom (passAfter i s m).1 (passAfter i s m).2).2.slots =
      .read true :: .read true :: (passAfter i s m).2.slots := by
  have hslots : (readPosition s.rom (passAfter i s m).1 (passAfter i s m).2).2.slots =
      .read (cmpRead s.rom (opened i s) (m + 1)) :: .read (idRead s.rom (opened i s) (m + 1)) ::
        (passAfter i s m).2.slots := rfl
  rw [hslots, hid, hcmp]

end faulted

theorem readPosition_now (old : Address) (p : Pass) (s : State) :
    (readPosition old p s).2.now = s.now + s.cfg.tSlot + s.cfg.tSlot := rfl

-- What every end commits

/-- The outcome by what the command met, with PRESENCE where a reset slot ran (R166, R167, R169, R170). -/
theorem SearchEnd.outcome {i : Instr} {s t : State} (h : SearchEnd i s t) :
    (startLdf i s = true ∧ t.sresult = .exhausted) ∨
    (startLdf i s = false ∧ s.bus.pullsLow s.draws .reset = false ∧ t.presence = false ∧ t.sresult = .busEmpty) ∨
    (startLdf i s = false ∧ s.bus.pullsLow s.draws .reset = true ∧ t.presence = true ∧
      (t.sresult = .found ∨ t.sresult = .zeroFamily ∨ t.sresult = .busFault)) := by
  cases h with
  | exhausted hldf => exact .inl ⟨hldf, outcome_exhausted hldf⟩
  | busEmpty hldf hbus => exact .inr (.inl ⟨hldf, hbus, rfl, outcome_busEmpty (firstPass i s)⟩)
  | completed hldf hbus _ =>
    rw [commitPass_presence, passAfter_presence, commitPass_sresult, outcome_completed]
    refine .inr (.inr ⟨hldf, hbus, rfl, ?_⟩)
    split
    · exact .inr (.inl rfl)
    · exact .inl rfl
  | faulted m hldf hbus _ _ hid hcmp =>
    exact .inr (.inr ⟨hldf, hbus, readPosition_presence_of_fault hid hcmp, .inr (.inr (outcome_faulted hid hcmp))⟩)

/-- What a commit writes by the outcome, ZERO_FAMILY being the work of R170 alone. -/
theorem commitPass_facts {p : Pass} (hp : p.code ≠ .zeroFamily) (s : State) :
    Committed (commitPass p s) ∧ ((commitPass p s).found = true ↔ (commitPass p s).sresult = .found) ∧
      ((commitPass p s).sresult = .found → addrByte (commitPass p s).rom 0 ≠ 0x00) ∧
      ((commitPass p s).sresult = .zeroFamily → addrByte (commitPass p s).rom 0 = 0x00) ∧
      ((commitPass p s).sresult ≠ .found →
        (commitPass p s).ld = 0 ∧ (commitPass p s).lfd = 0 ∧ (commitPass p s).ldf = false) := by
  refine ⟨⟨rfl, rfl⟩, decide_eq_true_iff, fun hf => ((outcome_eq_found_iff p).mp hf).2, fun hz => ?_,
    commitPass_of_not_found p s⟩
  by_contra h0
  have hcode : p.outcome = p.code := if_neg fun hc => h0 hc.2
  exact hp (hcode.symm.trans hz)

/-- What every end commits, whatever its outcome (R169, R170). -/
theorem SearchEnd.commits {i : Instr} {s t : State} (h : SearchEnd i s t) :
    Committed t ∧ (t.found = true ↔ t.sresult = .found) ∧ (t.sresult = .found → addrByte t.rom 0 ≠ 0x00) ∧
      (t.sresult = .zeroFamily → addrByte t.rom 0 = 0x00) ∧
      (t.sresult ≠ .found → t.ld = 0 ∧ t.lfd = 0 ∧ t.ldf = false) := by
  cases h with
  | exhausted hldf => exact commitPass_facts (by rw [firstPass_code, hldf]; exact SearchCode.noConfusion) _
  | busEmpty => exact commitPass_facts SearchCode.noConfusion _
  | completed => exact commitPass_facts (by rw [passAfter_code]; exact SearchCode.noConfusion) _
  | faulted m _ _ _ _ hid hcmp =>
    exact commitPass_facts (by rw [readPosition_of_fault hid hcmp]; exact SearchCode.noConfusion) _

/-- A command that ended with FOUND or ZERO_FAMILY passed all 64 positions (R168, R170). -/
theorem SearchEnd.of_completed {i : Instr} {s t : State} (h : SearchEnd i s t)
    (hr : t.sresult = .found ∨ t.sresult = .zeroFamily) :
    NoFault s.rom (opened i s) 64 ∧ s.bus.pullsLow s.draws .reset = true ∧
      t = commitPass (passAfter i s 64).1 (passAfter i s 64).2 := by
  cases h with
  | exhausted hldf =>
    rw [commitPass_sresult, outcome_exhausted hldf] at hr
    rcases hr with hr | hr <;> cases hr
  | busEmpty =>
    rw [commitPass_sresult, outcome_busEmpty] at hr
    rcases hr with hr | hr <;> cases hr
  | completed _ hbus hclean => exact ⟨hclean, hbus, rfl⟩
  | faulted m _ _ _ _ hid hcmp =>
    rw [commitPass_sresult, outcome_faulted hid hcmp] at hr
    rcases hr with hr | hr <;> cases hr

/-- A command that ended with BUS_FAULT read 1,1 at some position (R162, R169). -/
theorem SearchEnd.of_busFault {i : Instr} {s t : State} (h : SearchEnd i s t) (hr : t.sresult = .busFault) :
    ∃ m, m < 64 ∧ NoFault s.rom (opened i s) m ∧ s.bus.pullsLow s.draws .reset = true ∧
      idRead s.rom (opened i s) (m + 1) = true ∧ cmpRead s.rom (opened i s) (m + 1) = true ∧
      t = commitPass (readPosition s.rom (passAfter i s m).1 (passAfter i s m).2).1
        (readPosition s.rom (passAfter i s m).1 (passAfter i s m).2).2 := by
  cases h with
  | exhausted hldf => cases (outcome_exhausted hldf).symm.trans hr
  | busEmpty => cases (outcome_busEmpty (firstPass i s)).symm.trans hr
  | completed =>
    rw [commitPass_sresult, outcome_completed] at hr
    split at hr <;> cases hr
  | faulted m _ hbus hm hclean hid hcmp => exact ⟨m, hm, hclean, hbus, hid, hcmp, rfl⟩

theorem exec_search_frame {i : Instr} {s t : State} (hi : i = .searchFirst ∨ i = .searchNext) (h : exec i s = .next t) :
    SameRegsExcept ([.ld, .lfd, .sresult] ++ romRegs) s t ∧ SameFlagsExcept [.presence, .found, .ldf] s t ∧
      SameHostSide s t := by
  rcases hi with rfl | rfl <;> exact exec_frame h

/-- A register of the frame that ROM as it was adds (R169). -/
theorem SameRegsExcept.of_rom {rs : List Reg} {s t : State} (h : SameRegsExcept (rs ++ romRegs) s t)
    (hrom : t.rom = s.rom) : SameRegsExcept rs s t := by
  intro r hr hn
  cases r with
  | rom k => exact congrArg (addrByte · k) hrom
  | _ => exact h _ hr (by simpa [romRegs] using hn)

/-- The flags, with PRESENCE as it was (R167). -/
theorem SameFlagsExcept.of_presence {fs : List Flag} {s t : State} (h : SameFlagsExcept (.presence :: fs) s t)
    (hpres : t.presence = s.presence) : SameFlagsExcept fs s t := by
  intro f hf hn
  cases f with
  | presence => exact hpres
  | _ => exact h _ hf (by simpa using hn)

-- The positions passed, as the registers and the record of slots show them

section passed
variable {i : Instr} {s : State} {n : Nat} (h : NoFault s.rom (opened i s) n) (hn : n ≤ 64)
include h

theorem romBit_passAfter_of_gt {j : Nat} (hj : n < j) (hj64 : j ≤ 64) :
    romBit (passAfter i s n).1.rom j = romBit s.rom j :=
  (romBit_afterPositions_of_gt (opened_n i s) h hj hj64).trans (by rw [opened_rom])

include hn

theorem romBit_passAfter_of_le {j : Nat} (h1 : 1 ≤ j) (hj : j ≤ n) :
    romBit (passAfter i s n).1.rom j = dirTaken s.rom (opened i s) j :=
  romBit_afterPositions_of_le (opened_n i s) h hn h1 hj

theorem directionRule_passAfter {j : Nat} (h1 : 1 ≤ j) (hj : j ≤ n) :
    DirectionRule (idRead s.rom (opened i s)) (cmpRead s.rom (opened i s)) (startLd i s) s.rom
      (passAfter i s n).1.rom j :=
  opened_ld i s ▸ directionRule_afterPositions (opened_n i s) h hn h1 hj

theorem passAfter_slots (hbus : s.bus.pullsLow s.draws .reset = true) :
    (passAfter i s n).2.slots =
      (passOpening s.cfg ++ positionSlots (idRead s.rom (opened i s)) (cmpRead s.rom (opened i s))
        (passAfter i s n).1.rom n).reverse ++ s.slots := by
  rw [List.reverse_append, List.append_assoc, ← opened_slots i s hbus]
  exact afterPositions_slots (opened_n i s) h hn le_rfl

end passed

theorem passAfter_now (i : Instr) (s : State) (n : Nat) :
    (passAfter i s n).2.now = s.now + s.cfg.tStart + s.cfg.tRst + 8 * s.cfg.tSlot + 3 * n * s.cfg.tSlot := by
  rw [passAfter, afterPositions_now, opened_now, (onlyBus_opened i s).cfg]

theorem zeroTaken_iff_zeroChosen {i : Instr} {s : State} {n : Nat} (h : NoFault s.rom (opened i s) n) (hn : n ≤ 64)
    {j : Nat} (h1 : 1 ≤ j) (hj : j ≤ n) :
    zeroTaken s.rom (opened i s) j = true ↔
      ZeroChosen (idRead s.rom (opened i s)) (cmpRead s.rom (opened i s)) (passAfter i s n).1.rom j := by
  rw [ZeroChosen, romBit_passAfter_of_le h hn h1 hj]
  simp [zeroTaken, and_assoc]

/-- LD' of a complete pass (R164, R168). -/
theorem isLast_lastZero_passAfter {i : Instr} {s : State} (h : NoFault s.rom (opened i s) 64) :
    IsLast (ZeroChosen (idRead s.rom (opened i s)) (cmpRead s.rom (opened i s)) (passAfter i s 64).1.rom) 64
      (passAfter i s 64).1.lastZero :=
  (isLast_lastZero (opened_n i s) h (firstPass_lastZero i s)).congr fun _ h1 hj =>
    zeroTaken_iff_zeroChosen h le_rfl h1 hj

/-- LD and LDF as the commit of a found device writes them (R168). -/
theorem commitPass_isLast {P : Nat → Prop} {p : Pass} (hfound : p.outcome = .found) (hz : IsLast P 64 p.lastZero)
    (s : State) :
    IsLast P 64 (commitPass p s).ld.toNat ∧ (commitPass p s).ldf = decide ((commitPass p s).ld = 0) := by
  obtain ⟨hld, -, hldf⟩ := commitPass_of_found p s hfound
  rw [hld, hldf, hz.toNat_ofNat le_rfl]
  exact ⟨hz, decide_eq_decide.mpr (hz.ofNat_eq_zero_iff le_rfl).symm⟩

/-- LFD' of a complete pass (R164, R168). -/
theorem isLast_lfd_passAfter {i : Instr} {s : State} (h : NoFault s.rom (opened i s) 64) :
    ∃ z, IsLast (ZeroChosen (idRead s.rom (opened i s)) (cmpRead s.rom (opened i s)) (passAfter i s 64).1.rom) 8 z ∧
      (passAfter i s 64).1.lfd = if z = 0 then startLfd i s else BitVec.ofNat 8 z := by
  obtain ⟨z, hz, hlfd⟩ := isLast_lfd (opened_n i s) h
  rw [opened_lfd] at hlfd
  exact ⟨z, hz.congr fun _ h1 hj => zeroTaken_iff_zeroChosen h le_rfl h1 (by omega), hlfd⟩

end Sys2Proof.Machine

open Sys2Proof Sys2Proof.Machine in
/-- Settles O31: each of the four ends has its outcome, and the matrix gives the frame. -/
theorem searchAlwaysCommitsAnOutcome : Obligations.SearchAlwaysCommitsAnOutcome := by
  intro i s hi
  obtain ⟨t, ht, hend⟩ := exists_searchEnd hi s
  obtain ⟨hcommit, hfound, hbyte, hzero, hfail⟩ := hend.commits
  have hcase : t.sresult ≠ .none ∧ (t.sresult = .exhausted ↔ startLdf i s = true) ∧
      (t.sresult = .busEmpty ↔ startLdf i s = false ∧ s.bus.pullsLow s.draws .reset = false) ∧
      (startLdf i s = false → t.presence = s.bus.pullsLow s.draws .reset) := by
    rcases hend.outcome with ⟨hldf, hr⟩ | ⟨hldf, hbus, hpres, hr⟩ | ⟨hldf, hbus, hpres, hr | hr | hr⟩
    · simp [hldf, hr]
    all_goals simp [hldf, hbus, hpres, hr]
  obtain ⟨hsome, hexhausted, hempty, hpresence⟩ := hcase
  exact ⟨t, ht, hcommit, hsome, hfound, hexhausted, hempty, hbyte, hzero, hfail, hpresence, exec_search_frame hi ht⟩

open Sys2Proof Sys2Proof.Machine in
/-- Settles O34: at each of the 64 positions the pass follows the rules, and it commits what they recorded. -/
theorem completedPassFollowsTheRules : Obligations.CompletedPassFollowsTheRules := by
  intro i s t hi ht hr
  obtain ⟨hclean, hbus, rfl⟩ := (searchEnd_of_exec hi ht).of_completed hr
  rw [commitPass_rom]
  refine ⟨idRead s.rom (opened i s), cmpRead s.rom (opened i s), ?_, fun n h1 hn => ?_, fun hfound => ?_⟩
  · rw [commitPass_slots, passAfter_slots hclean le_rfl hbus]
  · exact directionRule_passAfter hclean le_rfl h1 hn
  · rw [commitPass_sresult] at hfound
    obtain ⟨⟨hall, hlast⟩, hldf⟩ := commitPass_isLast hfound (isLast_lastZero_passAfter hclean) (passAfter i s 64).2
    obtain ⟨z, hz, hlfd⟩ := isLast_lfd_passAfter hclean
    rw [(commitPass_of_found (passAfter i s 64).1 (passAfter i s 64).2 hfound).2.1, hlfd]
    refine ⟨hall, fun h0 => (hlast (mt (BitVec.eq_of_toNat_eq (y := 0)) h0)).2, hldf, fun n h1 h8 hn => ?_,
      fun hnone => if_pos ?_⟩
    · have hnz := hz.1 n h1 h8 hn
      have h0 : z ≠ 0 := by omega
      rw [if_neg h0, hz.toNat_ofNat (by decide)]
      exact ⟨hnz, (hz.2 h0).2⟩
    · by_contra h0
      obtain ⟨h1, h8, hzero⟩ := hz.2 h0
      exact hnone z h1 h8 hzero

open Sys2Proof Sys2Proof.Machine in
/-- Settles O35: the position that faults writes nothing, and those before it followed the rules. -/
theorem faultedPassStopsAtOnce : Obligations.FaultedPassStopsAtOnce := by
  intro i s t hi ht hr
  obtain ⟨m, hm, hclean, hbus, hid, hcmp, rfl⟩ := (searchEnd_of_exec hi ht).of_busFault hr
  refine ⟨m + 1, idRead s.rom (opened i s), cmpRead s.rom (opened i s), Nat.succ_pos m, hm, ?_, fun n h1 hn => ?_,
    fun n hn h64 => ?_, ?_⟩
  · rw [commitPass_slots, commitPass_rom, readPosition_rom_of_fault hid hcmp, readPosition_slots_of_fault hid hcmp,
      passAfter_slots hclean hm.le hbus]
    simp
  · rw [commitPass_rom, readPosition_rom_of_fault hid hcmp]
    exact directionRule_passAfter hclean hm.le h1 (Nat.lt_succ_iff.mp hn)
  · rw [commitPass_rom, readPosition_rom_of_fault hid hcmp]
    exact romBit_passAfter_of_gt hclean hn h64
  · rw [commitPass_now, readPosition_now, (onlyBus_passAfter i s m).cfg, passAfter_now, Nat.add_sub_cancel]
    simp only [Nat.add_mul]
    omega

open Sys2Proof Sys2Proof.Machine in
/-- Settles O29: the meaning is `T_INT` and the three fields; they are then what SEARCH_FIRST would make them. -/
theorem searchResetResult : Obligations.SearchResetResult := by
  intro s
  have hclear : s.internalDelay.clearSearch.complete.clearSearch = s.internalDelay.clearSearch.complete := rfl
  have hnext : exec .searchNext s.internalDelay.clearSearch.complete =
      exec .searchFirst s.internalDelay.clearSearch.complete := by
    rw [exec_searchNext, exec_searchFirst, hclear]
  obtain ⟨hregs, hflags, hhost⟩ := exec_frame (i := .searchReset) (s := s) rfl
  exact ⟨_, rfl, ⟨rfl, rfl⟩, rfl, rfl, rfl, rfl, hnext, hregs, hflags, hhost, rfl, rfl, rfl⟩

open Sys2Proof Sys2Proof.Machine in
/-- Settles O30: both are the pass from the cleared state. -/
theorem searchFirstClearsThenSearches : Obligations.SearchFirstClearsThenSearches :=
  fun s => (exec_searchFirst s).trans (exec_searchNext s.clearSearch).symm

open Sys2Proof Sys2Proof.Machine in
/-- Settles O32: the pass begins EXHAUSTED and commits after `T_INT`, ROM and PRESENCE as they were. -/
theorem exhaustedPassRunsNoSlot : Obligations.ExhaustedPassRunsNoSlot := by
  intro s hldf
  have hstart : startLdf .searchNext s = true := hldf
  have ht := exec_search (.inr rfl) s
  rw [if_pos hstart] at ht
  have ho := outcome_exhausted hstart
  obtain ⟨hld, hlfd, hldf'⟩ := commitPass_of_not_found (firstPass .searchNext s) s.internalDelay (by simp [ho])
  obtain ⟨hregs, hflags, hhost⟩ := exec_search_frame (.inr rfl) ht
  exact ⟨_, ht, ⟨rfl, rfl⟩, ho, by simp [ho], hld, hlfd, hldf', rfl, hregs.of_rom rfl, hflags.of_presence rfl, hhost,
    rfl, rfl, rfl⟩

open Sys2Proof Sys2Proof.Machine in
/-- Settles O33: the pass commits after its reset slot, ROM as it was. -/
theorem emptyBusPassRunsOneResetSlot : Obligations.EmptyBusPassRunsOneResetSlot := by
  intro i s hi hldf hbus
  obtain ⟨t, ht, hend⟩ := exists_searchEnd hi s
  have ho := outcome_busEmpty (firstPass i s)
  obtain ⟨hregs, hflags, hhost⟩ := exec_search_frame hi ht
  cases hend with
  | busEmpty =>
    obtain ⟨hld, hlfd, hldf'⟩ :=
      commitPass_of_not_found ((firstPass i s).afterReset true) (resetSlot s.startDelay).2 (by simp [ho])
    refine ⟨_, ht, ⟨rfl, rfl⟩, ho, by simp [ho], rfl, hld, hlfd, hldf', by simp [hbus], rfl,
      hregs.of_rom (firstPass_rom i s), hflags, hhost⟩
  | exhausted h => simp [hldf] at h
  | completed _ h => simp [hbus] at h
  | faulted _ _ h => simp [hbus] at h
end

section
/-! SUPPORT. Two passes that differ in ROM alone (R173): while LD is 0 the directions do not read the old ROM. -/

namespace Sys2Proof.Machine

/-- s with another ROM. -/
def State.withRom (s : State) (rom : Address) : State := { s with rom := rom }

/-- y is x with other bits in ROM', in a machine whose ROM is the given one. -/
def RomApart (rom : Address) (x y : Pass × State) : Prop :=
  ∃ r, y = ({ x.1 with rom := r }, x.2.withRom rom)

theorem writeBits_withRom (bits : List Bool) (s : State) (rom : Address) :
    writeBits bits (s.withRom rom) = (writeBits bits s).withRom rom := by
  induction bits generalizing s with
  | nil => rfl
  | cons b bits ih => exact ih (writeSlot b s)

/-- At LD = 0 the direction is that of a pass that goes down the zeros (R163). -/
theorem direction_of_ld_zero {p : Pass} (h : p.ld.toNat = 0) (old : Address) :
    p.direction old = if p.idBit != p.cmpBit then p.idBit else decide (p.n = 0) := by
  rw [Pass.direction, h, if_neg (Nat.not_lt_zero p.n)]

theorem takeDirection_of_other_rom (p : Pass) (r : Address) (d : Bool) :
    Pass.takeDirection { p with rom := r } d = { p.takeDirection d with rom := setRomBit r p.n d } := by
  simp only [Pass.takeDirection, Pass.recordZero]
  split <;> rfl

/-- The two reads of a position make the same of a pass but for ROM' (R162, R163). -/
theorem classify_of_other_rom {p : Pass} (h : p.ld.toNat = 0) (r old old' : Address) :
    ∃ r', Pass.classify { p with rom := r } old' = { p.classify old with rom := r' } := by
  cases hb : p.idBit && p.cmpBit with
  | true =>
    obtain ⟨hid, hcmp⟩ := Bool.and_eq_true_iff.mp hb
    rw [classify_of_fault old hid hcmp]
    exact ⟨r, classify_of_fault (p := { p with rom := r }) old' hid hcmp⟩
  | false =>
    have hdir : Pass.direction { p with rom := r } old' = p.direction old :=
      (direction_of_ld_zero (p := { p with rom := r }) h old').trans (direction_of_ld_zero h old).symm
    rw [classify_of_no_fault old hb, classify_of_no_fault (p := { p with rom := r }) old' hb, hdir]
    exact ⟨_, takeDirection_of_other_rom p r _⟩

section apart
variable {rom : Address} {x y : Pass × State} (h : RomApart rom x y)
include h

theorem RomApart.reads :
    (readSlot y.2).1 = (readSlot x.2).1 ∧ (readSlot (readSlot y.2).2).1 = (readSlot (readSlot x.2).2).1 := by
  obtain ⟨r, rfl⟩ := h
  exact ⟨rfl, rfl⟩

theorem RomApart.outcome_of_rom (hrom : y.1.rom = x.1.rom) : y.1.outcome = x.1.outcome := by
  obtain ⟨r, rfl⟩ := h
  have hr : r = x.1.rom := hrom
  rw [hr]

/-- Of two commits with the same outcome, ROM is all that differs. -/
theorem RomApart.commits (ho : y.1.outcome = x.1.outcome) :
    commitPass y.1 y.2 = (commitPass x.1 x.2).withRom y.1.rom := by
  obtain ⟨r, rfl⟩ := h
  rw [commitPass, ho]
  rfl

variable (hld : x.1.ld.toNat = 0) (old old' : Address)
include hld

theorem RomApart.afterReads : RomApart rom (readPosition old x.1 x.2) (readPosition old' y.1 y.2) := by
  obtain ⟨r, rfl⟩ := h
  obtain ⟨r', hr'⟩ := classify_of_other_rom
    (p := x.1.sampled (readSlot x.2).1 (readSlot (readSlot x.2).2).1) hld r old old'
  exact ⟨r', congrArg (·, _) hr'⟩

theorem RomApart.afterPosition : RomApart rom (runPosition old x) (runPosition old' y) := by
  obtain ⟨r, hr⟩ := h.afterReads hld old old'
  refine ⟨r, ?_⟩
  rw [runPosition, hr]
  rfl

theorem RomApart.after (n : Nat) : RomApart rom (afterPositions old x n) (afterPositions old' y n) := by
  induction n with
  | zero =>
    rw [afterPositions_zero, afterPositions_zero]
    exact h
  | succ n ih =>
    rw [afterPositions_succ, afterPositions_succ]
    exact ih.afterPosition (by rw [afterPositions_ld]; exact hld) old old'

theorem RomApart.idRead_eq (n : Nat) : idRead old' y n = idRead old x n := (h.after hld old old' (n - 1)).reads.1

theorem RomApart.cmpRead_eq (n : Nat) : cmpRead old' y n = cmpRead old x n := (h.after hld old old' (n - 1)).reads.2

theorem RomApart.dirTaken_eq (n : Nat) : dirTaken old' y n = dirTaken old x n := by
  obtain ⟨r, hr⟩ := (h.after hld old old' (n - 1)).afterReads (by rw [afterPositions_ld]; exact hld) old old'
  exact congrArg (·.1.dir) hr

theorem RomApart.noFault {n : Nat} (hc : NoFault old x n) : NoFault old' y n := by
  intro j h1 hj
  rw [h.idRead_eq hld old old', h.cmpRead_eq hld old old']
  exact hc j h1 hj

end apart

-- An end of a search command determines what it commits

theorem SearchEnd.functional {i : Instr} {s t u : State} (h : SearchEnd i s t) (k : SearchEnd i s u) : t = u := by
  cases h with
  | exhausted hldf =>
    cases k with
    | exhausted => rfl
    | busEmpty hldf' | completed hldf' | faulted _ hldf' => simp [hldf] at hldf'
  | busEmpty hldf hbus =>
    cases k with
    | busEmpty => rfl
    | exhausted hldf' => simp [hldf] at hldf'
    | completed _ hbus' | faulted _ _ hbus' => simp [hbus] at hbus'
  | completed hldf hbus hclean =>
    cases k with
    | completed => rfl
    | exhausted hldf' => simp [hldf] at hldf'
    | busEmpty _ hbus' => simp [hbus] at hbus'
    | faulted m _ _ hm _ hid hcmp => exact absurd ⟨hid, hcmp⟩ (hclean (m + 1) (Nat.succ_pos m) hm)
  | faulted m hldf hbus hm hclean hid hcmp =>
    cases k with
    | exhausted hldf' => simp [hldf] at hldf'
    | busEmpty _ hbus' => simp [hbus] at hbus'
    | completed _ _ hclean' => exact absurd ⟨hid, hcmp⟩ (hclean' (m + 1) (Nat.succ_pos m) hm)
    | faulted m' _ _ hm' hclean' hid' hcmp' =>
      have hle : m ≤ m' := by
        by_contra hlt
        exact hclean (m' + 1) (Nat.succ_pos m') (by omega) ⟨hid', hcmp'⟩
      have hge : m' ≤ m := by
        by_contra hlt
        exact hclean' (m + 1) (Nat.succ_pos m) (by omega) ⟨hid, hcmp⟩
      rw [Nat.le_antisymm hle hge]

theorem exec_of_searchEnd {i : Instr} {s t : State} (hi : i = .searchFirst ∨ i = .searchNext) (h : SearchEnd i s t) :
    exec i s = .next t := by
  obtain ⟨u, hu, hend⟩ := exists_searchEnd hi s
  rw [hu, hend.functional h]

-- SEARCH_FIRST from another ROM

theorem opened_romApart (s : State) (rom : Address) :
    RomApart rom (opened .searchFirst s) (opened .searchFirst (s.withRom rom)) :=
  ⟨rom, congrArg (Prod.mk _) (writeBits_withRom (bitsOf s.cfg.cmdSearchRom) (resetSlot s.startDelay).2 rom)⟩

theorem opened_searchFirst_ld (s : State) : (opened .searchFirst s).1.ld.toNat = 0 := opened_ld .searchFirst s

theorem length_positionSlots (id cmp : Nat → Bool) (rom : Address) (n : Nat) :
    (positionSlots id cmp rom n).length = 3 * n := by
  induction n with
  | zero => rfl
  | succ n ih =>
    rw [positionSlots_succ, List.length_append, ih]
    rfl

theorem length_passOpening (c : OWCConfig) : (passOpening c).length = 9 := by simp [passOpening]

section otherRom
variable {s : State} {rom : Address}

theorem noFault_otherRom {n : Nat} (h : NoFault s.rom (opened .searchFirst s) n) :
    NoFault (s.withRom rom).rom (opened .searchFirst (s.withRom rom)) n :=
  (opened_romApart s rom).noFault (opened_searchFirst_ld s) s.rom (s.withRom rom).rom h

theorem passAfter_romApart (n : Nat) :
    RomApart rom (passAfter .searchFirst s n) (passAfter .searchFirst (s.withRom rom) n) :=
  (opened_romApart s rom).after (opened_searchFirst_ld s) s.rom (s.withRom rom).rom n

/-- The bits written are the same. -/
theorem romBit_passAfter_otherRom {n : Nat} (h : NoFault s.rom (opened .searchFirst s) n) (hn : n ≤ 64) {j : Nat}
    (h1 : 1 ≤ j) (hj : j ≤ n) :
    romBit (passAfter .searchFirst (s.withRom rom) n).1.rom j =
      romBit (passAfter .searchFirst s n).1.rom j := by
  rw [romBit_passAfter_of_le (noFault_otherRom h) hn h1 hj, romBit_passAfter_of_le h hn h1 hj]
  exact (opened_romApart s rom).dirTaken_eq (opened_searchFirst_ld s) s.rom (s.withRom rom).rom j

theorem busEmpty_otherRom (hldf : startLdf .searchFirst s = false) (hbus : s.bus.pullsLow s.draws .reset = false) :
    SearchEnd .searchFirst (s.withRom rom)
      ((commitPass ((firstPass .searchFirst s).afterReset true) (resetSlot s.startDelay).2).withRom rom) := by
  have hapart : RomApart rom ((firstPass .searchFirst s).afterReset true, (resetSlot s.startDelay).2)
      ((firstPass .searchFirst (s.withRom rom)).afterReset true,
        (resetSlot (s.withRom rom).startDelay).2) := ⟨rom, rfl⟩
  have hcommit := hapart.commits ((outcome_busEmpty (firstPass .searchFirst (s.withRom rom))).trans
    (outcome_busEmpty (firstPass .searchFirst s)).symm)
  have hend : SearchEnd .searchFirst (s.withRom rom) _ := .busEmpty hldf hbus
  rw [hcommit] at hend
  exact hend

/-- A complete pass writes all of ROM. -/
theorem completed_otherRom (hldf : startLdf .searchFirst s = false) (hbus : s.bus.pullsLow s.draws .reset = true)
    (hclean : NoFault s.rom (opened .searchFirst s) 64) :
    SearchEnd .searchFirst (s.withRom rom)
      ((commitPass (passAfter .searchFirst s 64).1 (passAfter .searchFirst s 64).2).withRom
        (passAfter .searchFirst s 64).1.rom) := by
  have hrom : (passAfter .searchFirst (s.withRom rom) 64).1.rom = (passAfter .searchFirst s 64).1.rom :=
    address_ext_of_romBit fun _ => romBit_passAfter_otherRom hclean le_rfl
  have hapart : RomApart rom (passAfter .searchFirst s 64) (passAfter .searchFirst (s.withRom rom) 64) :=
    passAfter_romApart 64
  have hcommit := hapart.commits (hapart.outcome_of_rom hrom)
  rw [hrom] at hcommit
  have hend : SearchEnd .searchFirst (s.withRom rom) _ := .completed hldf hbus (noFault_otherRom hclean)
  rw [hcommit] at hend
  exact hend

theorem faulted_otherRom {m : Nat} (hldf : startLdf .searchFirst s = false)
    (hbus : s.bus.pullsLow s.draws .reset = true) (hm : m < 64) (hclean : NoFault s.rom (opened .searchFirst s) m)
    (hid : idRead s.rom (opened .searchFirst s) (m + 1) = true)
    (hcmp : cmpRead s.rom (opened .searchFirst s) (m + 1) = true) :
    SearchEnd .searchFirst (s.withRom rom)
      ((commitPass (readPosition s.rom (passAfter .searchFirst s m).1 (passAfter .searchFirst s m).2).1
          (readPosition s.rom (passAfter .searchFirst s m).1 (passAfter .searchFirst s m).2).2).withRom
        (passAfter .searchFirst (s.withRom rom) m).1.rom) := by
  have hopen := opened_romApart s rom
  have hld := opened_searchFirst_ld s
  have hid' := (hopen.idRead_eq hld s.rom (s.withRom rom).rom (m + 1)).trans hid
  have hcmp' := (hopen.cmpRead_eq hld s.rom (s.withRom rom).rom (m + 1)).trans hcmp
  have hreads := (passAfter_romApart (s := s) (rom := rom) m).afterReads
    (by rw [passAfter, afterPositions_ld]; exact hld) s.rom (s.withRom rom).rom
  have hcommit := hreads.commits ((outcome_faulted hid' hcmp').trans (outcome_faulted hid hcmp).symm)
  rw [readPosition_rom_of_fault hid' hcmp'] at hcommit
  have hend : SearchEnd .searchFirst (s.withRom rom) _ :=
    .faulted m hldf hbus hm (noFault_otherRom hclean) hid' hcmp'
  rw [hcommit] at hend
  exact hend

end otherRom

end Sys2Proof.Machine

open Sys2Proof Sys2Proof.Machine in
/-- Settles O36: from another ROM the pass reads and takes the same at each position, so it ends at the same one. -/
theorem searchFirstDoesNotReadRom : Obligations.SearchFirstDoesNotReadRom := by
  intro s t rom ht
  cases searchEnd_of_exec (.inl rfl) ht with
  | exhausted hldf => cases hldf
  | busEmpty hldf hbus =>
    have ho := outcome_busEmpty (firstPass .searchFirst s)
    have hrom : ((firstPass .searchFirst s).afterReset true).rom = s.rom := firstPass_rom .searchFirst s
    refine ⟨rom, exec_of_searchEnd (.inl rfl) (busEmpty_otherRom hldf hbus), ?_⟩
    simp only [commitPass_sresult, ho, commitPass_rom, hrom]
    simp
  | completed hldf hbus hclean =>
    refine ⟨_, exec_of_searchEnd (.inl rfl) (completed_otherRom hldf hbus hclean), fun _ => rfl, ?_⟩
    rw [commitPass_sresult, outcome_completed]
    split <;> simp
  | faulted m hldf hbus hm hclean hid hcmp =>
    refine ⟨_, exec_of_searchEnd (.inl rfl) (faulted_otherRom hldf hbus hm hclean hid hcmp), ?_⟩
    rw [commitPass_sresult, outcome_faulted hid hcmp, commitPass_slots, commitPass_rom,
      readPosition_slots_of_fault hid hcmp, readPosition_rom_of_fault hid hcmp, passAfter_slots hclean hm.le hbus]
    refine ⟨by simp, by simp, fun _ => ⟨m + 1, Nat.succ_pos m, hm, ?_, fun n h1 h64 => ⟨fun hn => ?_, fun hn => ?_⟩⟩,
      by simp⟩
    · simp [length_positionSlots, length_passOpening]
      omega
    · exact romBit_passAfter_otherRom hclean hm.le h1 (Nat.lt_succ_iff.mp hn)
    · exact ⟨romBit_passAfter_of_gt (noFault_otherRom hclean) hn h64, romBit_passAfter_of_gt hclean hn h64⟩
end

section
/-! SUPPORT. A search on the two buses that no slot changes, ShortBus and MuteBus (R129, R173). -/

namespace Sys2Proof.Machine

/-- A bus population that neither a slot nor a sample changes. -/
def Population.Steady (p : Population) : Prop := (∀ c d, p.observe c d = p) ∧ p.afterSample = p

theorem steady_short : Population.Steady .short := ⟨fun _ _ => rfl, rfl⟩

theorem steady_mute : Population.Steady .mute := ⟨fun _ _ => rfl, rfl⟩

section steady
variable {p : Population} (hp : p.Steady) {s : State} (hs : s.bus = p)
include hp hs

theorem resetSlot_bus_of_steady : (resetSlot s).2.bus = p := by rw [resetSlot_bus, hs, hp.2, hp.1]

theorem readSlot_bus_of_steady : (readSlot s).2.bus = p := by rw [readSlot_bus, hs, hp.2, hp.1]

theorem writeSlot_bus_of_steady (b : Bool) : (writeSlot b s).bus = p := by rw [writeSlot_bus, hs, hp.1]

theorem writeBits_bus_of_steady (bits : List Bool) : (writeBits bits s).bus = p := by
  induction bits generalizing s with
  | nil => exact hs
  | cons b bits ih => exact ih (writeSlot_bus_of_steady hp hs b)

theorem passAfter_bus_of_steady (i : Instr) (n : Nat) : (passAfter i s n).2.bus = p := by
  induction n with
  | zero =>
    rw [passAfter_zero]
    exact writeBits_bus_of_steady hp (resetSlot_bus_of_steady (s := s.startDelay) hp hs) _
  | succ n ih =>
    rw [passAfter, afterPositions_succ]
    exact writeSlot_bus_of_steady hp (readSlot_bus_of_steady hp (readSlot_bus_of_steady hp ih)) _

/-- Where every read samples the level l, so do the two of a position. -/
theorem reads_of_steady {l : Bool} (hl : ∀ draw, p.pullsLow draw .read = !l) (i : Instr) (n : Nat) :
    idRead s.rom (opened i s) n = l ∧ cmpRead s.rom (opened i s) n = l := by
  have hread {u : State} (hu : u.bus = p) : (readSlot u).1 = l := by rw [readSlot_fst, hu, hl, Bool.not_not]
  have hbus := passAfter_bus_of_steady hp hs i (n - 1)
  exact ⟨hread hbus, hread (readSlot_bus_of_steady hp hbus)⟩

end steady

/-- On ShortBus every read samples 0 (R129). -/
theorem reads_of_short {s : State} (hs : s.bus = .short) (i : Instr) (n : Nat) :
    idRead s.rom (opened i s) n = false ∧ cmpRead s.rom (opened i s) n = false :=
  reads_of_steady steady_short hs (fun _ => rfl) i n

/-- On MuteBus every read samples 1 (R129). -/
theorem reads_of_mute {s : State} (hs : s.bus = .mute) (i : Instr) (n : Nat) :
    idRead s.rom (opened i s) n = true ∧ cmpRead s.rom (opened i s) n = true :=
  reads_of_steady steady_mute hs (fun _ => rfl) i n

theorem noFault_of_short {s : State} (hs : s.bus = .short) (i : Instr) (n : Nat) : NoFault s.rom (opened i s) n := by
  intro j _ _
  simp [reads_of_short hs]

theorem rom_of_short {s : State} (hs : s.bus = .short) : (passAfter .searchFirst s 64).1.rom = Address.zero := by
  refine address_ext_of_romBit fun n h1 h64 => ?_
  obtain ⟨hid, hcmp⟩ := reads_of_short hs .searchFirst n
  obtain ⟨-, -, hdir⟩ := directionRule_passAfter (noFault_of_short hs .searchFirst 64) le_rfl h1 h64
  rw [hdir (hid.trans hcmp.symm), romBit_zero]
  simp [startLd]
  omega

end Sys2Proof.Machine

open Sys2Proof Sys2Proof.Machine in
/-- Settles O37: on ShortBus every position reads 0,0 and the pass goes down the zeros; on MuteBus the first reads
1,1. -/
theorem shortAndMuteBusOutcomes : Obligations.ShortAndMuteBusOutcomes := by
  intro s
  obtain ⟨t, ht, hend⟩ := exists_searchEnd (.inl rfl) s
  refine ⟨t, ht, fun hs => ?_, fun hs => ?_⟩
  · have hrom := rom_of_short hs
    cases hend.functional (.completed rfl (by rw [hs]; rfl) (noFault_of_short hs .searchFirst 64))
    rw [commitPass_sresult, outcome_completed, commitPass_presence, passAfter_presence, commitPass_rom, hrom]
    exact ⟨if_pos (addrByte_zero 0), rfl, rfl⟩
  · obtain ⟨hid, hcmp⟩ := reads_of_mute hs .searchFirst 1
    have hclean : NoFault s.rom (opened .searchFirst s) 0 := fun j h1 hj => by omega
    have hbus : s.bus.pullsLow s.draws .reset = true := by rw [hs]; rfl
    cases hend.functional (.faulted 0 rfl hbus (by decide) hclean hid hcmp)
    rw [commitPass_sresult, outcome_faulted hid hcmp, commitPass_presence, readPosition_presence_of_fault hid hcmp,
      commitPass_rom, readPosition_rom_of_fault hid hcmp, commitPass_slots, readPosition_slots_of_fault hid hcmp,
      passAfter_zero, opened_rom, opened_slots .searchFirst s hbus]
    exact ⟨rfl, rfl, rfl, rfl⟩
end

section
/-! SUPPORT. Where addresses first differ, and the order of their keys (R175). -/

namespace Sys2Proof.Machine

/-- Position n is the first at which the addresses differ. -/
structure DiffersFirstAt (a b : Address) (n : Nat) : Prop where
  one_le : 1 ≤ n
  le_last : n ≤ 64
  below : ∀ j, 1 ≤ j → j < n → romBit a j = romBit b j
  differs : romBit a n ≠ romBit b n

theorem exists_differsFirstAt {a b : Address} (h : a ≠ b) : ∃ n, DiffersFirstAt a b n := by
  have hex : ∃ n, 1 ≤ n ∧ n ≤ 64 ∧ romBit a n ≠ romBit b n := by
    by_contra hnone
    push Not at hnone
    exact h (address_ext_of_romBit hnone)
  obtain ⟨h1, h64, hne⟩ := Nat.find_spec hex
  refine ⟨Nat.find hex, h1, h64, fun j hj hlt => ?_, hne⟩
  by_contra hj'
  exact Nat.find_min hex hlt ⟨hj, by omega, hj'⟩

theorem DiffersFirstAt.symm {a b : Address} {n : Nat} (h : DiffersFirstAt a b n) : DiffersFirstAt b a n := by
  obtain ⟨h1, h64, hbelow, hne⟩ := h
  exact ⟨h1, h64, fun j hj hlt => (hbelow j hj hlt).symm, hne.symm⟩

theorem DiffersFirstAt.ne {a b : Address} {n : Nat} (h : DiffersFirstAt a b n) : a ≠ b :=
  fun he => h.differs (he ▸ rfl)

theorem keyPrefix_congr {a b : Address} {n : Nat} (h : ∀ j, 1 ≤ j → j ≤ n → romBit a j = romBit b j) :
    keyPrefix a n = keyPrefix b n := by
  induction n with
  | zero => rfl
  | succ n ih =>
    rw [keyPrefix, keyPrefix, ih fun j h1 hj => h j h1 (hj.trans (Nat.le_succ n)), h (n + 1) (Nat.succ_pos n) le_rfl]

/-- From its first difference on, the address with the 0 has the smaller key. -/
theorem keyPrefix_lt {a b : Address} {m n : Nat} (h : DiffersFirstAt a b m) (ha : romBit a m = false) (hn : m ≤ n) :
    keyPrefix a n < keyPrefix b n := by
  obtain ⟨h1, -, hbelow, hne⟩ := h
  have hb : romBit b m = true := by simpa [ha] using hne.symm
  induction n with
  | zero => omega
  | succ n ih =>
    rw [keyPrefix, keyPrefix]
    rcases Nat.le_succ_iff.mp hn with hlt | rfl
    · have := ih hlt
      have := Bool.toNat_le (romBit a (n + 1))
      omega
    · rw [keyPrefix_congr fun j hj hjn => hbelow j hj (Nat.lt_succ_of_le hjn), ha, hb]
      exact Nat.lt_succ_self _

theorem addrKey_lt_of_differsFirstAt {a b : Address} {n : Nat} (h : DiffersFirstAt a b n) (ha : romBit a n = false) :
    addrKey a < addrKey b := keyPrefix_lt h ha h.le_last

theorem DiffersFirstAt.zero_of_lt {a b : Address} {n : Nat} (h : DiffersFirstAt a b n) (hlt : addrKey a < addrKey b) :
    romBit a n = false := by
  by_contra ha
  rw [Bool.not_eq_false] at ha
  have hb : romBit b n = false := by simpa [ha] using h.differs.symm
  exact hlt.asymm (addrKey_lt_of_differsFirstAt h.symm hb)

/-- The smaller key has the 0 at the first difference (R175). -/
theorem addrKey_lt_iff {a b : Address} : addrKey a < addrKey b ↔ ∃ n, DiffersFirstAt a b n ∧ romBit a n = false := by
  constructor
  · intro hlt
    have hne : a ≠ b := fun he => absurd hlt (he ▸ lt_irrefl _)
    obtain ⟨n, hn⟩ := exists_differsFirstAt hne
    exact ⟨n, hn, hn.zero_of_lt hlt⟩
  · rintro ⟨n, hn, ha⟩
    exact addrKey_lt_of_differsFirstAt hn ha

-- Discrepancies

/-- Another address of D leaves the path of r at position n: the discrepancies a pass meets on the way to r. -/
def Discrepancy (D : List Address) (r : Address) (n : Nat) : Prop := ∃ y ∈ D, DiffersFirstAt r y n

theorem Discrepancy.bounds {D : List Address} {r : Address} {n : Nat} (h : Discrepancy D r n) : 1 ≤ n ∧ n ≤ 64 := by
  obtain ⟨y, -, hy⟩ := h
  exact ⟨hy.one_le, hy.le_last⟩

/-- What a complete pass with LD = ld0 over the addresses D finds, `old` being the address before it (R162, R163). -/
structure Finds (D : List Address) (ld0 : Nat) (old r : Address) : Prop where
  mem : r ∈ D
  rule : ∀ n, Discrepancy D r n → romBit r n = if n < ld0 then romBit old n else decide (n = ld0)

/-- A 0 on the way to r at a discrepancy (R164). -/
def ZeroBranch (D : List Address) (r : Address) (n : Nat) : Prop := Discrepancy D r n ∧ romBit r n = false

/-- A 0 at a discrepancy is the first difference from an address with a greater key. -/
theorem exists_zeroBranch_iff {D : List Address} {r : Address} :
    (∃ n, ZeroBranch D r n) ↔ ∃ y ∈ D, addrKey r < addrKey y := by
  constructor
  · rintro ⟨n, ⟨y, hy, hn⟩, h0⟩
    exact ⟨y, hy, addrKey_lt_of_differsFirstAt hn h0⟩
  · rintro ⟨y, hy, hlt⟩
    obtain ⟨n, hn, h0⟩ := addrKey_lt_iff.mp hlt
    exact ⟨n, ⟨y, hy, hn⟩, h0⟩

section finds
variable {D : List Address} {ld0 : Nat} {old r : Address} (h : Finds D ld0 old r)
include h

theorem Finds.zero_of_gt {n : Nat} (hn : Discrepancy D r n) (hgt : ld0 < n) : romBit r n = false := by
  rw [h.rule n hn, if_neg (by omega)]
  exact decide_eq_false (by omega)

theorem Finds.one_at {n : Nat} (hn : Discrepancy D r n) (he : n = ld0) : romBit r n = true := by
  rw [h.rule n hn, if_neg (by omega)]
  exact decide_eq_true he

theorem Finds.old_of_lt {n : Nat} (hn : Discrepancy D r n) (hlt : n < ld0) : romBit r n = romBit old n := by
  rw [h.rule n hn, if_pos hlt]

/-- With LD at a 0 branch of the address before, a pass finds one that first differs from it there (R163). -/
theorem Finds.differsFirstAt (hold : old ∈ D) (hld : ZeroBranch D old ld0) : DiffersFirstAt old r ld0 := by
  obtain ⟨⟨y, hy, h1, h64, hbelow, hne⟩, h0⟩ := hld
  have hnot : ¬∀ j, 1 ≤ j → j ≤ ld0 → romBit old j = romBit r j := fun hagree => by
    have hy' : DiffersFirstAt r y ld0 := ⟨h1, h64, fun j hj hlt => (hagree j hj hlt.le).symm.trans (hbelow j hj hlt),
      hagree ld0 h1 le_rfl ▸ hne⟩
    have hone := h.one_at ⟨y, hy, hy'⟩ rfl
    rw [← hagree ld0 h1 le_rfl, h0] at hone
    cases hone
  obtain ⟨n, hn⟩ := exists_differsFirstAt fun he : old = r => hnot fun j _ _ => by rw [he]
  obtain ⟨hn1, hn64, hnbelow, hnne⟩ := hn
  rcases lt_trichotomy n ld0 with hlt | rfl | hgt
  · exact absurd (h.old_of_lt ⟨old, hold, hn1, hn64, fun j hj hjn => (hnbelow j hj hjn).symm, hnne.symm⟩ hlt).symm hnne
  · exact ⟨hn1, hn64, hnbelow, hnne⟩
  · exact absurd (fun j hj hjl => hnbelow j hj (hjl.trans_lt hgt)) hnot

/-- With LD at the last 0 branch of the address before, a pass finds the next address in the order of keys (R175). -/
theorem Finds.next (hold : old ∈ D) (hlast : IsLast (ZeroBranch D old) 64 ld0) (h0 : ld0 ≠ 0) :
    addrKey old < addrKey r ∧ ∀ y ∈ D, addrKey old < addrKey y → addrKey r ≤ addrKey y := by
  obtain ⟨hall, hbranch⟩ := hlast
  obtain ⟨-, -, hzero⟩ := hbranch h0
  have hdiff := h.differsFirstAt hold hzero
  refine ⟨addrKey_lt_of_differsFirstAt hdiff hzero.2, fun y hy hlt => ?_⟩
  by_cases he : r = y
  · exact he ▸ le_rfl
  obtain ⟨n, hn⟩ := exists_differsFirstAt he
  suffices h0n : romBit r n = false from (addrKey_lt_of_differsFirstAt hn h0n).le
  obtain ⟨m, hm, h0m⟩ := addrKey_lt_iff.mp hlt
  have hmld : m ≤ ld0 := hall m hm.one_le hm.le_last ⟨⟨y, hy, hm⟩, h0m⟩
  have hagree (j : Nat) (hj : 1 ≤ j) (hjn : j < n) (hjld : j < ld0) : romBit old j = romBit y j :=
    (hdiff.below j hj hjld).trans (hn.below j hj hjn)
  rcases lt_trichotomy n ld0 with hnlt | rfl | hngt
  · have hr : romBit r n = romBit old n := (hdiff.below n hn.one_le hnlt).symm
    have hy' : DiffersFirstAt old y n :=
      ⟨hn.one_le, hn.le_last, fun j hj hjn => hagree j hj hjn (hjn.trans hnlt), hr ▸ hn.differs⟩
    exact hr.trans (hy'.zero_of_lt hlt)
  · have hone := h.one_at ⟨y, hy, hn⟩ rfl
    have hy0 : romBit y n = false := by simpa [hone] using hn.differs
    rcases hmld.lt_or_eq with hmlt | rfl
    · exact absurd (hagree m hm.one_le hmlt hmlt) hm.differs
    · exact absurd (h0m.trans hy0.symm) hm.differs
  · exact h.zero_of_gt ⟨y, hy, hn⟩ hngt

end finds

/-- With LD = 0 a pass finds the least address (R173). -/
theorem Finds.least {D : List Address} {old r : Address} (h : Finds D 0 old r) {y : Address} (hy : y ∈ D) :
    addrKey r ≤ addrKey y := by
  by_cases he : r = y
  · exact he ▸ le_rfl
  · obtain ⟨n, hn⟩ := exists_differsFirstAt he
    exact (addrKey_lt_of_differsFirstAt hn (h.zero_of_gt ⟨y, hy, hn⟩ hn.one_le)).le

/-- The first byte of an address is its bits 1 to 8 (R161). -/
theorem addrByte_eq_zero_iff {a : Address} : addrByte a 0 = 0x00 ↔ ∀ j, 1 ≤ j → j ≤ 8 → romBit a j = false := by
  have hbit (j : Nat) (hj : j < 8) : romBit a (j + 1) = bitOf (addrByte a 0) j := by
    rw [romBit, Nat.add_sub_cancel, Nat.div_eq_of_lt hj, Nat.mod_eq_of_lt hj]
  constructor
  · rintro h0 (_ | j) h1 h8
    · omega
    · rw [hbit j h8, h0]
      simp [bitOf]
  · intro h
    refine BitVec.eq_of_getLsbD_eq fun j hj => ?_
    exact (hbit j hj).symm.trans ((h (j + 1) (Nat.succ_pos j) hj).trans (by simp))

/-- A pass with LD = 0 goes down the zeros of an address whose first byte is 0x00 (R177). -/
theorem Finds.zeroFamily {D : List Address} {old r y : Address} (h : Finds D 0 old r) (hy : y ∈ D)
    (h0 : addrByte y 0 = 0x00) : addrByte r 0 = 0x00 := by
  rw [addrByte_eq_zero_iff] at *
  intro j h1 h8
  by_cases he : r = y
  · exact he ▸ h0 j h1 h8
  obtain ⟨n, hn⟩ := exists_differsFirstAt he
  have hzero := h.zero_of_gt ⟨y, hy, hn⟩ hn.one_le
  obtain ⟨hn1, -, hbelow, hne⟩ := hn
  have hn8 : 8 < n := by
    by_contra hle
    exact hne (hzero.trans (h0 n hn1 (by omega)).symm)
  exact (hbelow j h1 (by omega)).trans (h0 j h1 h8)

end Sys2Proof.Machine
end

section
/-! SUPPORT. A search pass on the reference population: which devices answer at each position, and what the pass finds
(R124 to R127, R162 to R168). -/

namespace Sys2Proof.Machine

-- Slots on the reference population

theorem readSlot_ref {s : State} {b : RefBus} (h : s.bus = .ref b) :
    (readSlot s).1 = !b.pullsLow s.draws .read ∧ (readSlot s).2.bus = .ref b.afterRead := by
  rw [readSlot_fst, readSlot_bus, h]
  exact ⟨rfl, rfl⟩

/-- The two reads of a position: both wired ANDs, and then the population waits for the direction (R126). -/
theorem reads_ref {s : State} {b : RefBus} {n : Nat} (h : s.bus = .ref b) (hm : b.mode = .search n .id) :
    (readSlot s).1 = b.active.all (fun d => romBit d.addr n) ∧
      (readSlot (readSlot s).2).1 = b.active.all (fun d => !romBit d.addr n) ∧
      (readSlot (readSlot s).2).2.bus = .ref { b with mode := .search n .dir } := by
  obtain ⟨hid, hbus⟩ := readSlot_ref h
  obtain ⟨hcmp, hbus'⟩ := readSlot_ref hbus
  rw [hid, hcmp, hbus']
  simp [RefBus.pullsLow, RefBus.afterRead, hm, List.all_eq_not_any_not]

/-- The population after the direction v of position n: the devices without that bit have left (R126). -/
def RefBus.directed (b : RefBus) (n : Nat) (v : Bool) : RefBus :=
  { b with active := b.active.filter fun d => romBit d.addr n == v,
           mode := if n = 64 then .idle else .search (n + 1) .id }

theorem writeDirection_ref {s : State} {b : RefBus} {n : Nat} (h : s.bus = .ref b) (hm : b.mode = .search n .dir)
    (v : Bool) :
    (writeSlot v s).bus = .ref (b.directed n v) := by
  rw [writeSlot_bus, h]
  simp only [Population.observe, RefBus.observe, RefBus.afterWrite, hm]
  rfl

/-- After the opening all devices are active, at position 1, whatever the ROM commands' bytes are (R125, R126,
log 23). -/
theorem opened_bus_ref {s : State} {b : RefBus} (h : s.bus = .ref b) (i : Instr) :
    (opened i s).2.bus = .ref { b with active := b.devices, selected := [], mode := .search 1 .id } := by
  have hreset : (resetSlot s.startDelay).2.bus =
      .ref { b with active := b.devices, selected := [], mode := .romCmd [] } := by
    rw [resetSlot_bus, State.startDelay_bus, h]
    rfl
  refine (writeBits_bus_ref (bitsOf s.cfg.cmdSearchRom) hreset).trans ?_
  rw [foldl_afterWrite_romCmd _ _ rfl (by decide) (by simp), List.nil_append, byteOfBits_bitsOf, RefBus.romCommand]
  exact congrArg Population.ref (if_pos rfl)

-- The devices still in the pass

/-- The device has answered at each position up to n as the direction went. -/
def OnPath (old : Address) (x : Pass × State) (n : Nat) (d : Device) : Prop :=
  ∀ j, 1 ≤ j → j ≤ n → romBit d.addr j = dirTaken old x j

/-- After n positions without a fault the active devices are those on the path, and there is one (R126). -/
def Searching (D : List Device) (old : Address) (x : Pass × State) (n : Nat) : Prop :=
  NoFault old x n ∧ ∃ c : RefBus, (afterPositions old x n).2.bus = .ref c ∧ c.devices = D ∧
    (n < 64 → c.mode = .search (n + 1) .id) ∧ (∀ d, d ∈ c.active ↔ d ∈ D ∧ OnPath old x n d) ∧
    ∃ d ∈ D, OnPath old x n d

theorem onPath_succ {old : Address} {x : Pass × State} {n : Nat} {d : Device} :
    OnPath old x (n + 1) d ↔ OnPath old x n d ∧ romBit d.addr (n + 1) = dirTaken old x (n + 1) := by
  constructor
  · intro h
    exact ⟨fun j h1 hj => h j h1 (hj.trans (Nat.le_succ n)), h (n + 1) (Nat.succ_pos n) le_rfl⟩
  · rintro ⟨h, hlast⟩ j h1 hj
    rcases Nat.le_succ_iff.mp hj with hle | rfl
    · exact h j h1 hle
    · exact hlast

section searching
variable {D : List Device} {old : Address} {x : Pass × State} {n : Nat} (h : Searching D old x n) (hn : n < 64)
include h hn

/-- The bit and the complement read are the wired ANDs over the devices on the path (R126). -/
theorem Searching.reads :
    (idRead old x (n + 1) = true ↔ ∀ d ∈ D, OnPath old x n d → romBit d.addr (n + 1) = true) ∧
      (cmpRead old x (n + 1) = true ↔ ∀ d ∈ D, OnPath old x n d → romBit d.addr (n + 1) = false) := by
  obtain ⟨-, c, hbus, -, hmode, hactive, -⟩ := h
  obtain ⟨hid, hcmp, -⟩ := reads_ref hbus (hmode hn)
  rw [idRead, cmpRead, Nat.add_sub_cancel, hid, hcmp]
  simp [hactive]

theorem Searching.noFault_succ : NoFault old x (n + 1) := by
  obtain ⟨hid, hcmp⟩ := h.reads hn
  obtain ⟨hclean, c, -, -, -, -, d, hd, hpath⟩ := h
  intro j h1 hj hreads
  rcases Nat.le_succ_iff.mp hj with hle | rfl
  · exact hclean j h1 hle hreads
  · have hone := hid.mp hreads.1 d hd hpath
    rw [hcmp.mp hreads.2 d hd hpath] at hone
    cases hone

/-- Some device on the path has the direction taken (R162, R163). -/
theorem Searching.exists_onPath_succ (hx : x.1.n = 1) : ∃ d ∈ D, OnPath old x (n + 1) d := by
  obtain ⟨hid, hcmp⟩ := h.reads hn
  have hclean := h.noFault_succ hn
  obtain ⟨hne, hdir, -⟩ := directionRule_afterPositions hx hclean hn (Nat.succ_pos n) le_rfl
  rw [romBit_afterPositions_of_le hx hclean hn (Nat.succ_pos n) le_rfl] at hdir
  obtain ⟨-, c, -, -, -, -, d, hd, hpath⟩ := h
  simp only [onPath_succ]
  cases hi : idRead old x (n + 1) with
  | true =>
    have hc : cmpRead old x (n + 1) = false := by simpa [hi] using hne
    exact ⟨d, hd, hpath, by rw [hdir (by simp [hi, hc]), hi]; exact hid.mp hi d hd hpath⟩
  | false =>
    cases hc : cmpRead old x (n + 1) with
    | true => exact ⟨d, hd, hpath, by rw [hdir (by simp [hi, hc]), hi]; exact hcmp.mp hc d hd hpath⟩
    | false =>
      cases dirTaken old x (n + 1) with
      | false => simpa [hi] using hid
      | true => simpa [hc] using hcmp

theorem Searching.succ (hx : x.1.n = 1) : Searching D old x (n + 1) := by
  have hclean := h.noFault_succ hn
  have hex := h.exists_onPath_succ hn hx
  obtain ⟨-, c, hbus, hD, hmode, hactive, -⟩ := h
  obtain ⟨-, -, hreads⟩ := reads_ref hbus (hmode hn)
  have hnext : (afterPositions old x (n + 1)).2.bus = .ref (c.directed (n + 1) (dirTaken old x (n + 1))) := by
    rw [afterPositions_succ]
    exact writeDirection_ref hreads rfl (dirTaken old x (n + 1))
  refine ⟨hclean, _, hnext, hD, fun hlt => if_neg (by omega), fun d => ?_, hex⟩
  rw [RefBus.directed, List.mem_filter, hactive, beq_iff_eq, onPath_succ, and_assoc]

end searching

/-- A pass on the reference population with a device goes on to the end (R126). -/
theorem searching_opened {i : Instr} {s : State} {b : RefBus} (hb : s.bus = .ref b) (hne : b.devices ≠ []) {n : Nat}
    (hn : n ≤ 64) : Searching b.devices s.rom (opened i s) n := by
  induction n with
  | zero =>
    have hall (d : Device) : OnPath s.rom (opened i s) 0 d := fun j h1 hj => by omega
    obtain ⟨d, hd⟩ := List.exists_mem_of_ne_nil _ hne
    have hbus : (afterPositions s.rom (opened i s) 0).2.bus = _ :=
      (congrArg (·.2.bus) (afterPositions_zero _ _)).trans (opened_bus_ref hb i)
    exact ⟨fun j h1 hj => by omega, _, hbus, rfl, fun _ => rfl, fun e => (and_iff_left (hall e)).symm, d, hd, hall d⟩
  | succ n ih => exact (ih (by omega)).succ hn (opened_n i s)

-- What the pass finds

section found
variable {i : Instr} {s : State} {b : RefBus} (hb : s.bus = .ref b) (hne : b.devices ≠ [])
include hb hne

theorem noFault_of_ref {n : Nat} (hn : n ≤ 64) : NoFault s.rom (opened i s) n := (searching_opened hb hne hn).1

/-- A device is on the path to position n as far as its address has the bits of ROM (R165). -/
theorem onPath_iff {n : Nat} (hn : n ≤ 64) (d : Device) :
    OnPath s.rom (opened i s) n d ↔ ∀ j, 1 ≤ j → j ≤ n → romBit d.addr j = romBit (passAfter i s 64).1.rom j := by
  have hbit (j : Nat) (h1 : 1 ≤ j) (hj : j ≤ n) :
      romBit (passAfter i s 64).1.rom j = dirTaken s.rom (opened i s) j :=
    romBit_passAfter_of_le (noFault_of_ref hb hne le_rfl) le_rfl h1 (hj.trans hn)
  exact forall_congr' fun j => forall₂_congr fun h1 hj => by rw [hbit j h1 hj]

theorem rom_mem_of_ref : (passAfter i s 64).1.rom ∈ b.devices.map Device.addr := by
  obtain ⟨-, c, -, -, -, -, d, hd, hpath⟩ := searching_opened (i := i) hb hne le_rfl
  exact List.mem_map.mpr ⟨d, hd, address_ext_of_romBit ((onPath_iff hb hne le_rfl d).mp hpath)⟩

/-- Both reads of a position are 0 exactly at a discrepancy (R162). -/
theorem discrepancy_iff {n : Nat} (h1 : 1 ≤ n) (hn : n ≤ 64) :
    Discrepancy (b.devices.map Device.addr) (passAfter i s 64).1.rom n ↔
      idRead s.rom (opened i s) n = false ∧ cmpRead s.rom (opened i s) n = false := by
  obtain ⟨m, rfl⟩ : ∃ m, n = m + 1 := ⟨n - 1, by omega⟩
  obtain ⟨hid, hcmp⟩ := (searching_opened (i := i) hb hne (by omega : m ≤ 64)).reads hn
  simp only [onPath_iff hb hne (by omega : m ≤ 64)] at hid hcmp
  constructor
  · rintro ⟨y, hy, -, -, hbelow, hdiff⟩
    obtain ⟨d, hd, rfl⟩ := List.mem_map.mp hy
    obtain ⟨e, he, hrom⟩ := List.mem_map.mp (rom_mem_of_ref (i := i) hb hne)
    rw [← hrom] at hid hcmp hbelow hdiff
    have hd' : ∀ j, 1 ≤ j → j ≤ m → romBit d.addr j = romBit e.addr j := fun j hj hjm =>
      (hbelow j hj (Nat.lt_succ_of_le hjm)).symm
    have he' : ∀ j, 1 ≤ j → j ≤ m → romBit e.addr j = romBit e.addr j := fun _ _ _ => rfl
    exact ⟨Bool.eq_false_iff.mpr fun h => hdiff ((hid.mp h e he he').trans (hid.mp h d hd hd').symm),
      Bool.eq_false_iff.mpr fun h => hdiff ((hcmp.mp h e he he').trans (hcmp.mp h d hd hd').symm)⟩
  · rintro ⟨hid0, hcmp0⟩
    have hzero : ∃ d ∈ b.devices, (∀ j, 1 ≤ j → j ≤ m → romBit d.addr j = romBit (passAfter i s 64).1.rom j) ∧
        romBit d.addr (m + 1) = false := by simpa [hid0] using hid
    have hone : ∃ d ∈ b.devices, (∀ j, 1 ≤ j → j ≤ m → romBit d.addr j = romBit (passAfter i s 64).1.rom j) ∧
        romBit d.addr (m + 1) = true := by simpa [hcmp0] using hcmp
    have hother : ∃ d ∈ b.devices, (∀ j, 1 ≤ j → j ≤ m → romBit d.addr j = romBit (passAfter i s 64).1.rom j) ∧
        romBit d.addr (m + 1) = !romBit (passAfter i s 64).1.rom (m + 1) := by
      cases romBit (passAfter i s 64).1.rom (m + 1) with
      | false => exact hone
      | true => exact hzero
    obtain ⟨d, hd, hbelow, hbit⟩ := hother
    exact ⟨d.addr, List.mem_map_of_mem hd, h1, hn, fun j hj hjm => (hbelow j hj (Nat.lt_succ_iff.mp hjm)).symm,
      by rw [hbit]; exact (Bool.not_ne_self _).symm⟩

/-- The address a pass reads is that the rules choose among the devices (R162, R163). -/
theorem finds_of_ref :
    Finds (b.devices.map Device.addr) (startLd i s) s.rom (passAfter i s 64).1.rom := by
  refine ⟨rom_mem_of_ref hb hne, fun n hn => ?_⟩
  obtain ⟨h1, h64⟩ := hn.bounds
  obtain ⟨hid, hcmp⟩ := (discrepancy_iff (i := i) hb hne h1 h64).mp hn
  obtain ⟨-, -, hrule⟩ := directionRule_passAfter (noFault_of_ref (i := i) hb hne le_rfl) le_rfl h1 h64
  exact hrule (hid.trans hcmp.symm)

/-- LD' is the last 0 branch on the way (R164). -/
theorem isLast_lastZero_of_ref :
    IsLast (ZeroBranch (b.devices.map Device.addr) (passAfter i s 64).1.rom) 64 (passAfter i s 64).1.lastZero := by
  refine (isLast_lastZero_passAfter (noFault_of_ref hb hne le_rfl)).congr fun n h1 h64 => ?_
  rw [ZeroBranch, discrepancy_iff hb hne h1 h64, ZeroChosen, and_assoc]

end found

/-- What a pass on the devices D commits: the address it finds, and LD and LDF for the next pass, or ZERO_FAMILY
(R162 to R170). -/
structure RefPass (D : List Device) (ld0 : Nat) (old : Address) (t : State) : Prop where
  bus : ∃ c, t.bus = .ref c ∧ c.devices = D
  finds : Finds (D.map Device.addr) ld0 old t.rom
  of_zeroFamily : addrByte t.rom 0 = 0x00 →
    t.sresult = .zeroFamily ∧ t.found = false ∧ t.ld = 0 ∧ t.lfd = 0 ∧ t.ldf = false
  of_found : addrByte t.rom 0 ≠ 0x00 →
    t.found = true ∧ IsLast (ZeroBranch (D.map Device.addr) t.rom) 64 t.ld.toNat ∧ t.ldf = decide (t.ld = 0)

theorem exec_search_ref {i : Instr} {s : State} {b : RefBus} (hi : i = .searchFirst ∨ i = .searchNext)
    (hb : s.bus = .ref b) (hne : b.devices ≠ []) (hldf : startLdf i s = false) :
    ∃ t, exec i s = .next t ∧ RefPass b.devices (startLd i s) s.rom t := by
  have hclean := noFault_of_ref (i := i) hb hne le_rfl
  have hpresence : s.bus.pullsLow s.draws .reset = true := by
    rw [hb]
    simpa [Population.pullsLow, RefBus.pullsLow] using hne
  have hout := outcome_completed i s
  refine ⟨_, exec_of_searchEnd hi (.completed hldf hpresence hclean), ?_, finds_of_ref hb hne, fun h0 => ?_,
    fun h0 => ?_⟩
  · obtain ⟨-, c, hbus, hD, -⟩ := searching_opened (i := i) hb hne le_rfl
    exact ⟨c, hbus, hD⟩
  · rw [commitPass_rom] at h0
    rw [if_pos h0] at hout
    exact ⟨hout, by simp [hout], commitPass_of_not_found _ _ (by simp [hout])⟩
  · rw [commitPass_rom] at h0 ⊢
    rw [if_neg h0] at hout
    exact ⟨by simp [hout], commitPass_isLast hout (isLast_lastZero_of_ref hb hne) _⟩

theorem exec_searchFirst_ref {s : State} {b : RefBus} (hb : s.bus = .ref b) (hne : b.devices ≠ []) :
    ∃ t, exec .searchFirst s = .next t ∧ RefPass b.devices 0 s.rom t := exec_search_ref (.inl rfl) hb hne rfl

theorem exec_searchNext_ref {D : List Device} {t : State} (hbus : ∃ c, t.bus = .ref c ∧ c.devices = D) (hne : D ≠ [])
    (hldf : t.ldf = false) : ∃ u, exec .searchNext t = .next u ∧ RefPass D t.ld.toNat t.rom u := by
  obtain ⟨c, hc, rfl⟩ := hbus
  exact exec_search_ref (.inr rfl) hc hne hldf

-- The state between two passes of a sweep

/-- The last pass found the address a of the devices D, and the search state says how to go on (R168). -/
structure FoundAt (D : List Device) (a : Address) (t : State) : Prop where
  bus : ∃ c, t.bus = .ref c ∧ c.devices = D
  mem : a ∈ D.map Device.addr
  rom : t.rom = a
  found : t.found = true
  lastZero : IsLast (ZeroBranch (D.map Device.addr) a) 64 t.ld.toNat
  ldf : t.ldf = decide (t.ld = 0)

theorem RefPass.foundAt {D : List Device} {ld0 : Nat} {old : Address} {t : State} (h : RefPass D ld0 old t)
    (h0 : addrByte t.rom 0 ≠ 0x00) : FoundAt D t.rom t := by
  obtain ⟨hf, hlast, hldf⟩ := h.of_found h0
  exact ⟨h.bus, h.finds.mem, rfl, hf, hlast, hldf⟩

section foundAt
variable {D : List Device} {a : Address} {t : State} (h : FoundAt D a t)
include h

/-- LD is 0 exactly at the greatest key (R175). -/
theorem FoundAt.ld_ne_zero_iff : t.ld.toNat ≠ 0 ↔ ∃ y ∈ D.map Device.addr, addrKey a < addrKey y := by
  obtain ⟨hall, hlast⟩ := h.lastZero
  rw [← exists_zeroBranch_iff]
  constructor
  · intro h0
    exact ⟨_, (hlast h0).2.2⟩
  · rintro ⟨n, hn⟩
    obtain ⟨h1, h64⟩ := hn.1.bounds
    have := hall n h1 h64 hn
    omega

theorem FoundAt.ldf_eq_false_iff : t.ldf = false ↔ ∃ y ∈ D.map Device.addr, addrKey a < addrKey y := by
  rw [← h.ld_ne_zero_iff, h.ldf, decide_eq_false_iff_not, ← BitVec.toNat_inj]
  rfl

/-- SEARCH_NEXT finds the next address in the order of keys, at LD (R163, R175). -/
theorem FoundAt.next (hmore : ∃ y ∈ D.map Device.addr, addrKey a < addrKey y) :
    ∃ u, exec .searchNext t = .next u ∧ RefPass D t.ld.toNat a u ∧ addrKey a < addrKey u.rom ∧
      ∀ y ∈ D.map Device.addr, addrKey a < addrKey y → addrKey u.rom ≤ addrKey y := by
  have hldf := h.ldf_eq_false_iff.mpr hmore
  have hld := h.ld_ne_zero_iff.mpr hmore
  have hne : D ≠ [] := mt List.map_eq_nil_iff.mpr (List.ne_nil_of_mem h.mem)
  obtain ⟨u, hu, hpass⟩ := exec_searchNext_ref h.bus hne hldf
  rw [h.rom] at hpass
  exact ⟨u, hu, hpass, hpass.finds.next h.mem h.lastZero hld⟩

end foundAt

-- Sequences of commands

theorem runCommands_snoc {is : List Instr} {i : Instr} {s t u : State} (h : runCommands is s = some t)
    (hi : exec i t = .next u) : runCommands (is ++ [i]) s = some u := by
  induction is generalizing s with
  | nil =>
    cases h
    simp [runCommands, hi]
  | cons j is ih =>
    rw [List.cons_append, runCommands]
    rw [runCommands] at h
    cases hj : exec j s with
    | next v =>
      simp only [hj] at h
      exact ih h
    | fault r => simp [hj] at h
    | refused r => simp [hj] at h

theorem runCommands_sweep_zero {s t : State} (h : exec .searchFirst s = .next t) : runCommands (sweep 0) s = some t :=
  runCommands_snoc (is := []) rfl h

theorem runCommands_sweep_succ {k : Nat} {s t u : State} (h : runCommands (sweep k) s = some t)
    (hu : exec .searchNext t = .next u) : runCommands (sweep (k + 1)) s = some u := by
  have hsweep : sweep (k + 1) = sweep k ++ [.searchNext] := by simp [sweep, List.replicate_succ']
  rw [hsweep]
  exact runCommands_snoc h hu

-- Addresses in the order of their keys

theorem getElem_eq_of_least {addrs : List Address} (hs : addrs.Pairwise fun x y => addrKey x < addrKey y) {r : Address}
    (hr : r ∈ addrs) {k : Nat} (hk : k < addrs.length) (hle : addrKey r ≤ addrKey addrs[k])
    (hbelow : ∀ j (hj : j < k), addrKey addrs[j] < addrKey r) : r = addrs[k] := by
  obtain ⟨j, hj, rfl⟩ := List.getElem_of_mem hr
  rw [List.pairwise_iff_getElem] at hs
  rcases lt_trichotomy j k with hlt | rfl | hgt
  · exact absurd (hbelow j hlt) (lt_irrefl _)
  · rfl
  · exact absurd (hs k j hk hj hgt) hle.not_gt

theorem exists_greater_iff {addrs : List Address} (hs : addrs.Pairwise fun x y => addrKey x < addrKey y) {k : Nat}
    (hk : k < addrs.length) : (∃ y ∈ addrs, addrKey addrs[k] < addrKey y) ↔ k + 1 ≠ addrs.length := by
  rw [List.pairwise_iff_getElem] at hs
  constructor
  · rintro ⟨y, hy, hlt⟩ hlast
    obtain ⟨j, hj, rfl⟩ := List.getElem_of_mem hy
    rcases (show j ≤ k by omega).lt_or_eq with hjk | rfl
    · exact (hs j k hj hk hjk).asymm hlt
    · exact lt_irrefl _ hlt
  · intro hne
    have hk' : k + 1 < addrs.length := by omega
    exact ⟨_, List.getElem_mem hk', hs k (k + 1) hk hk' (Nat.lt_succ_self k)⟩

/-- After k + 1 passes the sweep stands at the k-th address (R175). -/
theorem sweep_foundAt {s : State} {b : RefBus} {addrs : List Address} (hb : s.bus = .ref b)
    (hmem : ∀ a, a ∈ b.devices.map Device.addr ↔ a ∈ addrs)
    (hs : addrs.Pairwise fun x y => addrKey x < addrKey y) (hbyte : ∀ a ∈ addrs, addrByte a 0 ≠ 0x00) {k : Nat}
    (hk : k < addrs.length) : ∃ t, runCommands (sweep k) s = some t ∧ FoundAt b.devices addrs[k] t := by
  induction k with
  | zero =>
    have hne : b.devices ≠ [] := fun he => by
      have := (hmem addrs[0]).mpr (List.getElem_mem hk)
      simp [he] at this
    obtain ⟨t, ht, hpass⟩ := exec_searchFirst_ref hb hne
    have hr : t.rom ∈ addrs := (hmem _).mp hpass.finds.mem
    have hrom : t.rom = addrs[0] := getElem_eq_of_least hs hr hk
      (hpass.finds.least ((hmem _).mpr (List.getElem_mem hk))) fun j hj => absurd hj (Nat.not_lt_zero j)
    exact ⟨t, runCommands_sweep_zero ht, hrom ▸ hpass.foundAt (hbyte _ hr)⟩
  | succ k ih =>
    have hk' : k < addrs.length := by omega
    obtain ⟨t, ht, hfound⟩ := ih hk'
    have hlt := List.pairwise_iff_getElem.mp hs
    have hsucc := hlt k (k + 1) hk' hk (Nat.lt_succ_self k)
    have hin : addrs[k + 1] ∈ b.devices.map Device.addr := (hmem _).mpr (List.getElem_mem hk)
    obtain ⟨u, hu, hpass, hgt, hleast⟩ := hfound.next ⟨_, hin, hsucc⟩
    have hr : u.rom ∈ addrs := (hmem _).mp hpass.finds.mem
    have hrom : u.rom = addrs[k + 1] := getElem_eq_of_least hs hr hk (hleast _ hin hsucc) fun j hj => by
      rcases (Nat.lt_succ_iff.mp hj).lt_or_eq with hjk | rfl
      · exact (hlt j k (by omega) hk' hjk).trans hgt
      · exact hgt
    exact ⟨u, runCommands_sweep_succ ht hu, hrom ▸ hpass.foundAt (hbyte _ hr)⟩

/-- A pass over devices of which one has family code 0x00 ends with ZERO_FAMILY, and leaves the devices (R170, R177). -/
theorem RefPass.zeroFamily {D : List Device} {old : Address} {t : State} {d : Device} (h : RefPass D 0 old t)
    (hd : d ∈ D) (h0 : addrByte d.addr 0 = 0x00) :
    (∃ c, t.bus = .ref c ∧ c.devices = D) ∧ t.sresult = .zeroFamily ∧ t.found = false ∧ t.ld = 0 ∧ t.lfd = 0 ∧
      t.ldf = false := by
  exact ⟨h.bus, h.of_zeroFamily (h.finds.zeroFamily (List.mem_map_of_mem hd) h0)⟩

end Sys2Proof.Machine

open Sys2Proof Sys2Proof.Machine in
/-- Settles O38: the one discrepancy is at k, where SEARCH_FIRST takes 0 and SEARCH_NEXT, at LD = k, takes 1. -/
theorem twoAddressesAreResolvedAtTheirDifference : Obligations.TwoAddressesAreResolvedAtTheirDifference := by
  intro s b d0 d1 k hb hD h1 h64 hk0 hk1 hsame hb0 hb1
  have hdiff : DiffersFirstAt d0.addr d1.addr k :=
    ⟨h1, h64, fun j hj hjk => hsame j hj (by omega) (by omega), by simp [hk0, hk1]⟩
  have hlt := addrKey_lt_of_differsFirstAt hdiff hk0
  have hmem (a : Address) : a ∈ b.devices.map Device.addr ↔ a = d0.addr ∨ a = d1.addr := by
    rcases hD with hD | hD <;> simp [hD, or_comm]
  have hmore : ∃ y ∈ b.devices.map Device.addr, addrKey d0.addr < addrKey y :=
    ⟨d1.addr, (hmem _).mpr (.inr rfl), hlt⟩
  obtain ⟨t, ht, hpass⟩ := exec_searchFirst_ref hb (by rcases hD with hD | hD <;> simp [hD])
  have hrom : t.rom = d0.addr := ((hmem _).mp hpass.finds.mem).resolve_right fun he =>
    (he ▸ hpass.finds.least ((hmem _).mpr (.inl rfl))).not_gt hlt
  have hfound : FoundAt b.devices d0.addr t := hrom ▸ hpass.foundAt (hrom ▸ hb0)
  have hld : t.ld.toNat = k := by
    obtain ⟨hl1, hl64, ⟨y, hy, hy'⟩, -⟩ := hfound.lastZero.2 (hfound.ld_ne_zero_iff.mpr hmore)
    by_contra hne
    rcases (hmem y).mp hy with rfl | rfl
    · exact hy'.ne rfl
    · exact hy'.differs (hsame _ hl1 hl64 hne)
  obtain ⟨u, hu, hpass', hgt, -⟩ := hfound.next hmore
  have hrom' : u.rom = d1.addr := ((hmem _).mp hpass'.finds.mem).resolve_left fun he => lt_irrefl _ (he ▸ hgt)
  have hfound' : FoundAt b.devices d1.addr u := hrom' ▸ hpass'.foundAt (hrom' ▸ hb1)
  have hlast : ¬∃ y ∈ b.devices.map Device.addr, addrKey d1.addr < addrKey y := by
    rintro ⟨y, hy, hlt'⟩
    rcases (hmem y).mp hy with rfl | rfl
    · exact hlt.asymm hlt'
    · exact lt_irrefl _ hlt'
  have hld' : u.ld.toNat = 0 := not_not.mp (mt hfound'.ld_ne_zero_iff.mp hlast)
  exact ⟨t, u, ht, hfound.found, hrom, hld, hfound.ldf_eq_false_iff.mpr hmore, hu, hfound'.found, hrom',
    BitVec.eq_of_toNat_eq hld', Bool.of_not_eq_false (mt hfound'.ldf_eq_false_iff.mp hlast)⟩

open Sys2Proof Sys2Proof.Machine in
/-- Settles O39: each pass finds the least key above that of the pass before, until LDF says that there is none. -/
theorem sweepReturnsEveryDeviceInKeyOrder : Obligations.SweepReturnsEveryDeviceInKeyOrder := by
  intro s b addrs hb hperm hs hne hbyte
  have hat {k : Nat} (hk : k < addrs.length) := sweep_foundAt hb (fun a => hperm.mem_iff) hs hbyte hk
  have hldf {k : Nat} (hk : k < addrs.length) {t : State} (h : FoundAt b.devices addrs[k] t) :
      t.ldf = decide (k + 1 = addrs.length) := by
    have hiff := h.ldf_eq_false_iff
    simp only [hperm.mem_iff, exists_greater_iff hs hk] at hiff
    rw [Bool.eq_iff_iff, decide_eq_true_iff, ← not_iff_not, Bool.not_eq_true]
    exact hiff
  refine ⟨fun k hk => ?_, ?_⟩
  · obtain ⟨t, ht, hfound⟩ := hat hk
    exact ⟨t, ht, hfound.found, hfound.rom, hldf hk hfound⟩
  · have hpos := List.length_pos_iff.mpr hne
    obtain ⟨k, hk⟩ : ∃ k, addrs.length = k + 1 := ⟨addrs.length - 1, by omega⟩
    obtain ⟨t, ht, hfound⟩ := hat (k := k) (by omega)
    have hlast : t.ldf = true := (hldf (by omega) hfound).trans (decide_eq_true hk.symm)
    obtain ⟨u, hu, -, hresult, hnone, -⟩ := exhaustedPassRunsNoSlot t hlast
    rw [hk]
    exact ⟨u, runCommands_sweep_succ ht hu, hnone, hresult⟩

open Sys2Proof Sys2Proof.Machine in
/-- Settles O40: every pass begins with LD = 0 and LDF = 0, and goes down the zeros of that device. -/
theorem zeroFamilyDeviceBlocksTheSweep : Obligations.ZeroFamilyDeviceBlocksTheSweep := by
  intro s b d k hb hd h0
  suffices h : ∃ t, runCommands (sweep k) s = some t ∧ (∃ c, t.bus = .ref c ∧ c.devices = b.devices) ∧
      t.sresult = .zeroFamily ∧ t.found = false ∧ t.ld = 0 ∧ t.lfd = 0 ∧ t.ldf = false by
    obtain ⟨t, ht, -, hzero⟩ := h
    exact ⟨t, ht, hzero⟩
  have hne : b.devices ≠ [] := List.ne_nil_of_mem hd
  induction k with
  | zero =>
    obtain ⟨t, ht, hpass⟩ := exec_searchFirst_ref hb hne
    exact ⟨t, runCommands_sweep_zero ht, hpass.zeroFamily hd h0⟩
  | succ k ih =>
    obtain ⟨t, ht, hbus, -, -, hld, -, hldf⟩ := ih
    obtain ⟨u, hu, hpass⟩ := exec_searchNext_ref hbus hne hldf
    rw [hld] at hpass
    exact ⟨u, runCommands_sweep_succ ht hu, hpass.zeroFamily hd h0⟩
end

section
/-! SUPPORT. The 72 bits that SELECT sends, by place (R200). -/

namespace Sys2Proof.Machine

theorem exec_select (s : State) : exec .select s = .next (writeBits (selectBits s) s.startDelay).complete := rfl

/-- Bit j of byte k is the bit 8 k + j + 1 of the address (R161). -/
theorem romBit_eq_bitOf (a : Address) (k : Nat) {j : Nat} (hj : j < 8) :
    romBit a (8 * k + j + 1) = bitOf (addrByte a k) j := by
  rw [romBit, Nat.add_sub_cancel, Nat.mul_add_div (by decide), Nat.div_eq_of_lt hj, Nat.mul_add_mod,
    Nat.mod_eq_of_lt hj, Nat.add_zero]

theorem getElem?_addrBits (a : Address) {k j : Nat} (hk : k < 8) (hj : j < 8) :
    (addrBits a)[8 * k + j]? = some (bitOf (addrByte a k) j) := by
  rw [addrBits_eq_map_romBit, List.getElem?_map, List.getElem?_range (by omega), Option.map_some,
    romBit_eq_bitOf a k hj]

theorem getElem?_selectBits_command (s : State) {j : Nat} (hj : j < 8) :
    (selectBits s)[j]? = some (bitOf s.cfg.cmdMatchRom j) := by
  rw [selectBits, List.getElem?_append_left (by simpa using hj), getElem?_bitsOf _ hj]

theorem getElem?_selectBits_address (s : State) {k j : Nat} (hk : k < 8) (hj : j < 8) :
    (selectBits s)[8 + 8 * k + j]? = some (bitOf (addrByte s.matchAddr k) j) := by
  rw [selectBits, Nat.add_assoc, List.getElem?_append_right (by simp), length_bitsOf, Nat.add_sub_cancel_left,
    getElem?_addrBits _ hk hj]

end Sys2Proof.Machine

open Sys2Proof.Machine in
/-- Settles O41: SELECT is a run of write slots over its bits, the first eight from CMD_MATCH_ROM and each eight after
them from a byte of MATCH, and the matrix gives it nothing. -/
theorem selectSendsMatchCommandAndAddress : Obligations.SelectSendsMatchCommandAndAddress := by
  intro s
  obtain ⟨hslots, hdraws, hnow⟩ := writeBits_spec (selectBits s) s.startDelay
  rw [length_selectBits] at hnow
  refine ⟨_, selectBits s, exec_select s, ⟨rfl, rfl⟩, hslots, length_selectBits s, fun j hj => ?_, fun k j hk hj => ?_,
    hdraws, hnow, exec_frame (exec_select s)⟩
  · rw [List.getD_eq_getElem?_getD, getElem?_selectBits_command s hj]
    rfl
  · rw [List.getD_eq_getElem?_getD, getElem?_selectBits_address s hk hj]
    rfl
end

section
/-! SUPPORT. The update of the CRC as eight rounds of one linear map over `c ^ d`, and the three CRC commands (R210 to
R215). -/

namespace Sys2Proof.Machine

-- One round of the update, on the exclusive or of accumulator and byte

/-- One round of the loop of R210 on `c ^ d`: the lowest bit is shifted out, and 0x8C goes in where it was 1. -/
def crcRound (x : Byte) : Byte := if x &&& 0x01 = 1 then (x >>> 1) ^^^ 0x8C else x >>> 1

@[simp] theorem crcRound_zero : crcRound 0x00 = 0x00 := rfl

theorem and_one_eq_one_iff (x : Byte) : x &&& 0x01 = 1 ↔ x.getLsbD 0 = true := by
  rw [show (0x01 : Byte) = 1#8 from rfl, BitVec.and_one_eq_setWidth_ofBool_getLsbD]
  cases x.getLsbD 0 <;> decide

theorem crcRound_eq (x : Byte) : crcRound x = (x >>> 1) ^^^ if x.getLsbD 0 then 0x8C else 0x00 := by
  rw [crcRound, if_congr (and_one_eq_one_iff x) rfl rfl]
  split
  · rfl
  · exact BitVec.xor_zero.symm

/-- A round is linear: so are the shift and the choice of 0x8C by the lowest bit. -/
theorem crcRound_xor (x y : Byte) : crcRound (x ^^^ y) = crcRound x ^^^ crcRound y := by
  simp only [crcRound_eq, BitVec.ushiftRight_xor_distrib, BitVec.getLsbD_xor]
  have hchoice : ∀ p q : Bool, (if p ^^ q then 0x8C else 0x00 : Byte) =
      (if p then 0x8C else 0x00) ^^^ (if q then 0x8C else 0x00) := by decide
  rw [hchoice]
  ac_rfl

/-- A round loses nothing: the bit shifted out comes back as bit 7, which 0x8C has and a shifted byte has not. -/
theorem eq_zero_of_crcRound_eq_zero : ∀ x : Byte, crcRound x = 0x00 → x = 0x00 := by decide

theorem crcRound_injective : Function.Injective crcRound := fun x y h =>
  BitVec.xor_eq_zero_iff.mp <| eq_zero_of_crcRound_eq_zero _ <| by
    rw [crcRound_xor, h]
    exact BitVec.xor_self

/-- The loop of R210 iterates the round on `c ^ d`; the bits of d not yet consumed still stand in that exclusive or. -/
theorem crcRounds_eq_iterate (k : Nat) (c d : Byte) : crcRounds k c d = crcRound^[k] (c ^^^ d) ^^^ (d >>> k) := by
  induction k generalizing c d with
  | zero => simp [crcRounds]
  | succ k ih =>
    have hround : (if (c ^^^ d) &&& 0x01 = 1 then (c >>> 1) ^^^ 0x8C else c >>> 1) ^^^ (d >>> 1) =
        crcRound (c ^^^ d) := by
      rw [crcRound, BitVec.ushiftRight_xor_distrib]
      split
      · ac_rfl
      · rfl
    rw [crcRounds_succ, ih, hround, Function.iterate_succ_apply, ← BitVec.shiftRight_add, Nat.add_comm 1 k]

/-- After the eight rounds nothing is left of d (R210). -/
theorem crc8Update_eq_iterate (c d : Byte) : crc8Update c d = crcRound^[8] (c ^^^ d) := by
  rw [crc8Update, crcRounds_eq_iterate, BitVec.ushiftRight_eq_zero le_rfl, BitVec.xor_zero]

theorem crc8Update_zero_left (x : Byte) : crc8Update 0x00 x = crcRound^[8] x :=
  (crc8Update_eq_iterate 0x00 x).trans (congrArg _ BitVec.zero_xor)

/-- The update leaves 0x00 exactly when the byte is the accumulator (R215). -/
theorem crc8Update_eq_zero_iff {c d : Byte} : crc8Update c d = 0x00 ↔ c = d := by
  have hzero : crcRound^[8] 0x00 = 0x00 := Function.iterate_fixed crcRound_zero 8
  rw [crc8Update_eq_iterate, ← hzero, (crcRound_injective.iterate 8).eq_iff]
  exact BitVec.xor_eq_zero_iff

-- The three commands

theorem exec_crcClear (s : State) : exec .crcClear s = .next (commitCrcClear s.internalDelay) := rfl

theorem exec_crcFeed (s : State) : exec .crcFeed s = .next (commitCrcFeed s.internalDelay) := rfl

theorem exec_crcRom (s : State) : exec .crcRom s = .next (commitCrcRom s.internalDelay) := rfl

/-- CRC_ROM sets CRC_OK exactly when the CRC of ROM0 to ROM6 is ROM7 (R214). -/
theorem commitCrcRom_crcOk_iff (s : State) :
    (commitCrcRom s).crcOk = true ↔ crc8 (checkedBytes s.rom) = addrByte s.rom 7 := decide_eq_true_iff

/-- Feeding a byte range folds the update over it, from CRC as it stands (R213). -/
theorem feedBytes_eq_foldl (bytes : List Byte) (s : State) :
    ∃ u, feedBytes bytes s = some u ∧ u.crc = bytes.foldl crc8Update s.crc ∧ u.crcOk = s.crcOk := by
  induction bytes generalizing s with
  | nil => exact ⟨s, rfl, rfl, rfl⟩
  | cons v bytes ih => exact ih (commitCrcFeed { s with data := v }.internalDelay)

end Sys2Proof.Machine

open Sys2Proof.Machine in
/-- Settles O46: the update is eight rounds of a linear map over `c ^ d`. -/
theorem crcUpdateDependsOnTheXor : Obligations.CrcUpdateDependsOnTheXor := by
  refine ⟨fun c d => ?_, fun x y => ?_, by decide⟩
  · rw [crc8Update_eq_iterate, crc8Update_zero_left]
  · have hxor : Function.Semiconj₂ crcRound (· ^^^ ·) (· ^^^ ·) := crcRound_xor
    simpa only [crc8Update_zero_left] using hxor.iterate 8 x y

open Sys2Proof.Machine in
/-- Settles O47: CRC_CLEAR leaves the initial value of `crc8`, and each CRC_FEED is one step of its fold. -/
theorem feedingARangeLeavesItsCrc : Obligations.FeedingARangeLeavesItsCrc := by
  intro bytes s t h
  cases (exec_crcClear s).symm.trans h
  exact feedBytes_eq_foldl bytes _

open Sys2Proof.Machine in
/-- Settles O48: the update by a byte leaves 0x00 exactly when that byte is the CRC so far, which is what CRC_ROM
checks of ROM7. -/
theorem crcResidueIsZero : Obligations.CrcResidueIsZero := by
  refine ⟨fun bytes => ?_, fun s t h => ?_⟩
  · rw [crc8_append_byte]
    exact crc8Update_eq_zero_iff.mpr rfl
  · cases (exec_crcRom s).symm.trans h
    have hbytes : (List.range 8).map (addrByte s.rom) = checkedBytes s.rom ++ [addrByte s.rom 7] := rfl
    rw [hbytes, crc8_append_byte, crc8Update_eq_zero_iff]
    exact commitCrcRom_crcOk_iff _

open Sys2Proof.Machine in
/-- Settles O43: the matrix gives CRC_CLEAR CRC alone. -/
theorem crcClearResult : Obligations.CrcClearResult := by
  intro s
  obtain ⟨hregs, hflags, hhost⟩ := exec_frame (exec_crcClear s)
  exact ⟨_, exec_crcClear s, ⟨rfl, rfl⟩, rfl, rfl, hregs, hflags, hhost, rfl, rfl, rfl⟩

open Sys2Proof.Machine in
/-- Settles O44: the matrix gives CRC_FEED CRC alone. -/
theorem crcFeedResult : Obligations.CrcFeedResult := by
  intro s
  obtain ⟨hregs, hflags, hhost⟩ := exec_frame (exec_crcFeed s)
  exact ⟨_, exec_crcFeed s, ⟨rfl, rfl⟩, rfl, rfl, hregs, hflags, hhost, rfl, rfl, rfl⟩

open Sys2Proof.Machine in
/-- Settles O45: the matrix gives CRC_ROM CRC and CRC_OK, and CRC_OK is the check against ROM7. -/
theorem crcRomResult : Obligations.CrcRomResult := by
  intro s
  obtain ⟨hregs, hflags, hhost⟩ := exec_frame (exec_crcRom s)
  exact ⟨_, exec_crcRom s, ⟨rfl, rfl⟩, congrArg crc8 (checkedBytes_eq s.rom), commitCrcRom_crcOk_iff _, rfl, hregs,
    hflags, hhost, rfl, rfl, rfl⟩
end

section
/-! SUPPORT. What answers a next state, so that no stop is left where the invariant holds (R230): every command, the
sequencer's turn, and every well-formed host event. -/

namespace Sys2Proof.Machine

/-- No meaning of a command stops, whatever the state (R230). -/
theorem exec_answers (i : Instr) (s : State) : ∃ t, exec i s = .next t := by
  cases i <;> exact ⟨_, rfl⟩

/-- The code a running command holds is a legal one (R33), so the sequencer has a command to run or to go on with. -/
theorem sequencerTurn_answers {s : State} (hs : Inv s) (rest : List HostEvent) :
    ∃ t, sequencerTurn s rest = .next t := by
  cases hp : s.phase with
  | idle => exact ⟨_, sequencerTurn_of_idle (State.busy_eq_false_iff.mpr hp) rest⟩
  | run r =>
    obtain ⟨-, -, i, hi, -⟩ := (inv_of_run hp).mp hs
    by_cases hr : r = startRun i s r.curCmd
    · rw [sequencerTurn_of_notBegun hp hi hr]
      exact exec_answers i _
    · exact ⟨_, sequencerTurn_of_begun hp hi hr rest⟩

theorem exists_windowOffset {c : OWCConfig} {addr : Nat} (h : inWindow c addr = true) :
    ∃ off, windowOffset c addr = some off :=
  ⟨addr - c.base, if_pos h⟩

theorem stepEvent_answers {e : HostEvent} {s : State} (hs : Inv s) (he : e.wellFormed s.cfg = true) :
    ∃ t, stepEvent e s = .next t := by
  cases e with
  | write addr v =>
    obtain ⟨off, ho⟩ := exists_windowOffset he
    exact ⟨_, stepEvent_write v ho⟩
  | read addr =>
    obtain ⟨off, ho⟩ := exists_windowOffset he
    exact ⟨_, stepEvent_read ho⟩
  | wide addr width => exact absurd he Bool.false_ne_true
  | tick => exact ⟨_, stepEvent_tick s⟩
  | wait => exact sequencerTurn_answers (s := { s with host := .wait :: s.host }) hs s.host
  | rst => exact ⟨_, stepEvent_rst s⟩

end Sys2Proof.Machine

open Sys2Proof.Machine in
/-- Settles O21: the step is the sequencer's turn or a well-formed event, and each answers where the invariant holds. -/
theorem wellFormedEventsNeverStop : Obligations.WellFormedEventsNeverStop := by
  intro s hs he
  cases hh : s.host with
  | nil =>
    rw [step_of_nil hh]
    exact sequencerTurn_answers hs []
  | cons e rest =>
    rw [step_of_cons hh]
    exact stepEvent_answers (s := { s with host := rest }) hs (he e rest hh)
end

section
/-! SUPPORT. The outcomes of a search command that run no position, and the time and slots of each outcome (R272). -/

namespace Sys2Proof.Machine

/-- A command that ended with BUS_EMPTY ran its reset slot alone (R166). -/
theorem SearchEnd.of_busEmpty {i : Instr} {s t : State} (h : SearchEnd i s t) (hr : t.sresult = .busEmpty) :
    t = commitPass ((firstPass i s).afterReset true) (resetSlot s.startDelay).2 := by
  cases h with
  | exhausted hldf => cases (outcome_exhausted hldf).symm.trans hr
  | busEmpty => rfl
  | completed =>
    rw [commitPass_sresult, outcome_completed] at hr
    split at hr <;> cases hr
  | faulted m _ _ _ _ hid hcmp => cases (outcome_faulted hid hcmp).symm.trans hr

/-- A command that ended with EXHAUSTED ran no slot (R167). -/
theorem SearchEnd.of_exhausted {i : Instr} {s t : State} (h : SearchEnd i s t) (hr : t.sresult = .exhausted) :
    t = commitPass (firstPass i s) s.internalDelay := by
  cases h with
  | exhausted => rfl
  | busEmpty => cases (outcome_busEmpty (firstPass i s)).symm.trans hr
  | completed =>
    rw [commitPass_sresult, outcome_completed] at hr
    split at hr <;> cases hr
  | faulted m _ _ _ _ hid hcmp => cases (outcome_faulted hid hcmp).symm.trans hr

section durations
variable {i : Instr} {s t : State} (hi : i = .searchFirst ∨ i = .searchNext) (h : exec i s = .next t)
include hi h

/-- 8 bits of the search byte and 64 positions of three slots follow the reset slot. -/
theorem now_of_completed (hr : t.sresult = .found ∨ t.sresult = .zeroFamily) :
    t.now = s.now + s.cfg.tStart + s.cfg.tRst + 200 * s.cfg.tSlot := by
  obtain ⟨-, -, rfl⟩ := (searchEnd_of_exec hi h).of_completed hr
  rw [commitPass_now, passAfter_now]
  omega

/-- The fault at position n ends the pass after the n - 1 positions before it and its two reads. -/
theorem slots_and_now_of_busFault (hr : t.sresult = .busFault) :
    ∃ n, 1 ≤ n ∧ n ≤ 64 ∧ t.slots.length = s.slots.length + 9 + 3 * (n - 1) + 2 ∧
      t.now = s.now + s.cfg.tStart + s.cfg.tRst + (8 + 3 * (n - 1) + 2) * s.cfg.tSlot := by
  obtain ⟨n, id, cmp, h1, h64, hslots, -, -, hnow⟩ := faultedPassStopsAtOnce i s t hi h hr
  refine ⟨n, h1, h64, ?_, hnow⟩
  rw [hslots, List.length_append, List.length_reverse, List.length_append, List.length_append, length_passOpening,
    length_positionSlots, List.length_cons, List.length_singleton]
  omega

theorem now_of_busEmpty (hr : t.sresult = .busEmpty) : t.now = s.now + s.cfg.tStart + s.cfg.tRst := by
  rw [(searchEnd_of_exec hi h).of_busEmpty hr]
  rfl

theorem now_of_exhausted (hr : t.sresult = .exhausted) : t.now = s.now + s.cfg.tInt := by
  rw [(searchEnd_of_exec hi h).of_exhausted hr]
  rfl

/-- The time of a search command by its outcome (R272). -/
theorem exec_search_durations :
    (t.sresult = .found ∨ t.sresult = .zeroFamily →
      t.now = s.now + s.cfg.tStart + s.cfg.tRst + 200 * s.cfg.tSlot) ∧
    (t.sresult = .busFault → ∃ n, 1 ≤ n ∧ n ≤ 64 ∧ t.slots.length = s.slots.length + 9 + 3 * (n - 1) + 2 ∧
      t.now = s.now + s.cfg.tStart + s.cfg.tRst + (8 + 3 * (n - 1) + 2) * s.cfg.tSlot) ∧
    (t.sresult = .busEmpty → t.now = s.now + s.cfg.tStart + s.cfg.tRst) ∧
    (t.sresult = .exhausted → t.now = s.now + s.cfg.tInt) :=
  ⟨now_of_completed hi h, slots_and_now_of_busFault hi h, now_of_busEmpty hi h, now_of_exhausted hi h⟩

end durations

end Sys2Proof.Machine

open Sys2Proof.Machine in
/-- Settles O50: each slot lasts its time, and a search runs the slots of its outcome. -/
theorem commandDurations : Obligations.CommandDurations := by
  intro i s t h
  cases i with
  | busReset => cases h; rfl
  | writeBit => cases h; rfl
  | readBit => cases h; rfl
  | writeByte =>
    cases (exec_writeByte s).symm.trans h
    have hnow := (writeBits_spec (bitsOf s.data) s.startDelay).2.2
    rwa [length_bitsOf] at hnow
  | readByte =>
    cases (exec_readByte s).symm.trans h
    exact readBitsFrom_now 8 0x00 s.startDelay
  | select =>
    cases (exec_select s).symm.trans h
    have hnow := (writeBits_spec (selectBits s) s.startDelay).2.2
    rwa [length_selectBits] at hnow
  | searchReset => cases h; rfl
  | crcClear => cases h; rfl
  | crcFeed => cases h; rfl
  | crcRom => cases h; rfl
  | searchFirst => exact exec_search_durations (.inl rfl) h
  | searchNext => exact exec_search_durations (.inr rfl) h
end

section
/-! SUPPORT. Block reset (R260, R261): the block's own state after it, and the record and the bus with a slot cut or
none. -/

namespace Sys2Proof.Machine

theorem step_of_rst {s : State} {rest : List HostEvent} (h : s.host = .rst :: rest) :
    step s = .next (assertReset { s with host := rest }) := step_of_cons h

theorem blockReset_regValue (s : State) (r : Reg) : s.blockReset.regValue r = 0x00 := by
  have hreset : s.blockReset.regValue r = State.reset.regValue r := by cases r <;> rfl
  rw [hreset, regValue_reset]

theorem assertReset_regValue (s : State) (r : Reg) : (assertReset s).regValue r = 0x00 := by
  rcases assertReset_cases s with ⟨-, h⟩ | ⟨d, -, h⟩ <;> rw [h, blockReset_regValue]

/-- The sequencer and SRESULT after block reset (R45, R260). -/
theorem assertReset_sequencer (s : State) :
    (assertReset s).sresult = .none ∧ (assertReset s).phase = .idle ∧ (assertReset s).owDriveLow = false := by
  rcases assertReset_cases s with ⟨-, h⟩ | ⟨d, -, h⟩ <;> simp [h]

/-- What is not the block's, the bus population and the record apart, block reset leaves alone (R260). -/
theorem assertReset_frame (s : State) :
    (assertReset s).now = s.now ∧ (assertReset s).host = s.host ∧ (assertReset s).reads = s.reads ∧
      (assertReset s).draws = s.draws ∧ (assertReset s).readDraws = s.readDraws := by
  rcases assertReset_cases s with ⟨-, h⟩ | ⟨d, -, h⟩ <;> simp [h]

theorem assertReset_of_no_cut {s : State} (h : cutSlot s = none) :
    (assertReset s).slots = s.slots ∧ (assertReset s).bus = s.bus := by
  rw [assertReset, h]
  exact ⟨rfl, rfl⟩

theorem assertReset_of_cut {s : State} {d : SlotDone} (h : cutSlot s = some d) :
    (assertReset s).slots = d :: s.slots ∧ (assertReset s).bus = s.bus.observe s.cfg d := by
  rw [assertReset, h]
  exact ⟨rfl, rfl⟩

section run
variable {s : State} {r : Run} {i : Instr} (hp : s.phase = .run r) (hi : decode r.curCmd = .command i)
include hp hi

/-- No slot is cut while `T_START` passes, or in a command with no slot (R119). -/
theorem cutSlot_outside_slot (h : r.waitLeft ≠ 0 ∨ currentSlot i s r = none) : cutSlot s = none := by
  rw [cutSlot_of_run hp hi]
  rcases h with hw | hk
  · exact if_pos hw
  · rw [hk, Option.map_none, ite_self]

theorem cutSlot_in_slot {k : SlotKind} (hw : r.waitLeft = 0) (hk : currentSlot i s r = some k) :
    cutSlot s = some (.cut k r.tickCount) := by
  rw [cutSlot_of_run hp hi, if_neg (not_not.mpr hw), hk, Option.map_some]

end run

theorem eq_cut_of_cutSlot {s : State} {d : SlotDone} (h : cutSlot s = some d) : ∃ k n, d = .cut k n := by
  cases hp : s.phase with
  | idle => cases (cutSlot_of_idle hp).symm.trans h
  | run r =>
    cases hi : decode r.curCmd with
    | illegal => simp [cutSlot, hp, hi] at h
    | command i =>
      rw [cutSlot_of_run hp hi] at h
      split at h
      · cases h
      · obtain ⟨k, -, rfl⟩ := Option.map_eq_some_iff.mp h
        exact ⟨k, _, rfl⟩

/-- The population that a cut slot leaves as it was (R261, U16). -/
theorem observe_cut_of_not_ref {p : Population} (h : ∀ b, p ≠ .ref b) (c : OWCConfig) (k : SlotKind) (n : Nat) :
    p.observe c (.cut k n) = p := by
  cases p with
  | ref b => exact absurd rfl (h b)
  | _ => rfl

/-- An unknown reference population answers a read slot with a free draw (log 8). -/
theorem pullsLow_unknown (b : RefBus) (d : Nat) :
    (Population.ref { b with mode := .unknown }).pullsLow d .read = !Config.freeLevel d := rfl

end Sys2Proof.Machine

open Sys2Proof Sys2Proof.Machine in
/-- Settles O58: the reset values come after the cut of the slot the command stands in, if there is one. -/
theorem blockResetOverridesEverything : Obligations.BlockResetOverridesEverything := by
  intro s rest hh
  obtain ⟨hsresult, hphase, hline⟩ := assertReset_sequencer { s with host := rest }
  obtain ⟨hnow, hhost, hreads, hdraws, hreadDraws⟩ := assertReset_frame { s with host := rest }
  have hslot (i : Instr) (r : Run) : currentSlot i { s with host := rest } r = currentSlot i s r :=
    currentSlot_congr i r rfl rfl rfl
  refine ⟨_, step_of_rst hh, assertReset_regValue _, assertReset_flag _, hsresult, hphase, hline, assertReset_cfg _,
    hnow, hhost, hreads, hdraws, hreadDraws, fun hb => ?_, fun r i hp hi hout => ?_, fun r i k hp hi hw hk => ?_, ?_⟩
  · exact assertReset_of_no_cut (s := { s with host := rest }) (cutSlot_of_idle (State.busy_eq_false_iff.mp hb))
  · rw [← hslot] at hout
    exact assertReset_of_no_cut (s := { s with host := rest }) (cutSlot_outside_slot hp hi hout)
  · rw [← hslot] at hk
    obtain ⟨hslots, hbus⟩ := assertReset_of_cut (s := { s with host := rest }) (cutSlot_in_slot hp hi hw hk)
    refine ⟨hslots, fun hnot => hbus.trans (observe_cut_of_not_ref hnot _ _ _), fun b hb => ?_⟩
    have hunknown : (assertReset { s with host := rest }).bus = .ref { b with mode := .unknown } := by
      rw [hbus, observe_cut, show State.bus { s with host := rest } = .ref b from hb]
    exact ⟨hunknown, fun d => hunknown ▸ pullsLow_unknown b d⟩
  · cases hc : cutSlot { s with host := rest } with
    | none => exact .inl (assertReset_of_no_cut hc).1
    | some d =>
      obtain ⟨k, n, rfl⟩ := eq_cut_of_cutSlot hc
      exact .inr ⟨k, n, (assertReset_of_cut hc).1⟩
end
